-- ==== Sys2Proof/Word.lean ====
section
/-! DEFINITION. The byte and the word of the JakVM (spec/00_scope.md R5, R6): 8 and 16 bits, bit 0 least significant. -/

namespace Sys2Proof

/-- A byte of memory or of an instruction: bits 7 to 0 (R6). -/
abbrev Byte := BitVec 8

/-- A 16-bit word: a general register, PC, an address (R5, R6). Arithmetic on it is modulo 2^16 (R8). -/
abbrev Word := BitVec 16

end Sys2Proof
end

