-- ==== Sys2Proof/Machine/Bits.lean ====
section
/-! DEFINITION. Bit fields, byte order and extension of the JakVM's values (spec/00_scope.md R6, R8;
spec/20_memory.md R62; spec/30_encoding.md R93). -/

namespace Sys2Proof

/-- `hi(v)`: bits 15:8 (R8). -/
def hiByte (v : Word) : Byte := v.extractLsb' 8 8

/-- `lo(v)`: bits 7:0 (R8). -/
def loByte (v : Word) : Byte := v.extractLsb' 0 8

/-- `h :: l`: the byte at the lower address is bits 15:8 (R62). -/
def joinBytes (h l : Byte) : Word := h ++ l

/-- `zext_16` of a 4-bit immediate (R93). -/
def zext4 (v : BitVec 4) : Word := v.setWidth 16

/-- `zext_16` of a 2-bit immediate (R93). -/
def zext2 (v : BitVec 2) : Word := v.setWidth 16

/-- `sext_16` of a branch displacement, two's complement (R93, R266). -/
def sext8 (d : Byte) : Word := d.signExtend 16

/-- The word whose `n` low bits are 1: `2^n - 1` (R231). -/
def lowOnes (n : Nat) : Word := BitVec.ofNat 16 (2 ^ n - 1)

/-- The word whose `n` high bits are 1, for `n ≤ 16`: `(2^n - 1) * 2^(16 - n)` (R232, R254). -/
def highOnes (n : Nat) : Word := lowOnes n <<< (16 - n)

end Sys2Proof
end

