-- ==== Sys2Proof/Syntax.lean ====
section
/-! DEFINITION. The instruction set as syntax: one constructor of `Instr` per row of spec/opcode_table.json, in the
table's order. Register selectors, immediates and mask bits are already decoded (spec/30_encoding.md R91 to R94). -/

namespace Sys2Proof

/-- A general register (R20): AX selector 00, BX 01, CX 10, SP 11. -/
inductive Reg where
  | ax
  | bx
  | cx
  | sp
  deriving DecidableEq, Repr

/-- The second operand of an A2 instruction (R94): a register (register form, `v = 0`) or an unsigned 4-bit immediate
from 1 to 15 (immediate form, `v ≠ 0`; the ignored bits 1:0 are dropped, R98). -/
inductive A2Operand where
  | reg (l : Reg)
  | imm (v : BitVec 4)
  deriving DecidableEq, Repr

/-- The instructions and the reserved and unassigned rows (R95). Operands stand in assembler order (R101, R102):
`m` is the MSB register field, `d` the middle one, `l` the LSB one. -/
inductive Instr where
  | nop
  | int
  | eni
  | dei
  | rst
  | hlt
  | swp
  /-- First byte `07` (R96). -/
  | reserved07
  | cmp
  | ret
  | cmu
  /-- First byte `0B` (R96). -/
  | reserved0B
  /-- First bytes `0C` to `0F`, by their two low bits (R96). -/
  | reserved0C (low : BitVec 2)
  | pus (r : Reg)
  | pop (r : Reg)
  /-- First bytes `18` to `1B`, by their two low bits (R96). -/
  | reserved18 (low : BitVec 2)
  /-- First bytes `1C` and `1D`, by their low bit (R96). -/
  | reserved1C (low : BitVec 1)
  /-- First byte `1E` (R96). -/
  | reserved1E
  | ljp (a : Word)
  /-- First bytes `20` to `23`, by their two low bits (R97). -/
  | unassigned20 (low : BitVec 2)
  | jmr (r : Reg)
  | jzr (r : Reg)
  | jnr (r : Reg)
  | jlr (r : Reg)
  | jgr (r : Reg)
  | jor (r : Reg)
  | jur (r : Reg)
  /-- First bytes `40` to `4F`, by their four low bits (R96). -/
  | reserved40 (low : BitVec 4)
  | mov (m l : Reg)
  | lod (m l : Reg)
  | sto (m l : Reg)
  | add (m : Reg) (o : A2Operand)
  | sub (m : Reg) (o : A2Operand)
  | mul (m : Reg) (o : A2Operand)
  | div (m : Reg) (o : A2Operand)
  | mod (m : Reg) (o : A2Operand)
  /-- First byte `85` (R96). -/
  | reserved85
  /-- First bytes `86` and `87`, by their low bit (R96). -/
  | reserved86 (low : BitVec 1)
  | neg (r : Reg)
  | not (r : Reg)
  | and (m l : Reg)
  | ior (m l : Reg)
  | xor (m l : Reg)
  | rcl (v : BitVec 4)
  | cal (a : Word)
  /-- First byte `D1` (R97). -/
  | unassignedD1
  /-- First bytes `D2` and `D3`, by their low bit (R97). -/
  | unassignedD2 (low : BitVec 1)
  | rcr (r : Reg)
  | car (r : Reg) (a : Word)
  | scl (m : Reg) (o : A2Operand)
  | scr (m : Reg) (o : A2Operand)
  /-- First byte `DE` (R96). -/
  | reservedDE
  | irf (k : Byte)
  | laa (r : Reg) (a : Word)
  | rol (m : Reg) (o : A2Operand)
  | ror (m : Reg) (o : A2Operand)
  | shl (m : Reg) (o : A2Operand)
  | shr (m : Reg) (o : A2Operand)
  /-- The mask bits in the order ZCS, bits 7, 6 and 5 of the second byte (R265). -/
  | cli (z c s : Bool)
  | jmp (d : Byte)
  | jiz (d : Byte)
  | jnz (d : Byte)
  | jlt (d : Byte)
  | jge (d : Byte)
  | jof (d : Byte)
  | jnf (d : Byte)
  | ldi (m l : Reg) (v : BitVec 4)
  | sti (m l : Reg) (v : BitVec 4)
  | lri (m d l : Reg) (v : BitVec 2)
  | sri (m d l : Reg) (v : BitVec 2)
  | mvi (r : Reg) (k : Word)
  | inc (r : Reg)
  | dec (r : Reg)
  deriving DecidableEq, Repr

end Sys2Proof
end

