-- ==== Sys2Proof/WellFormed.lean ====
section
/-! DEFINITION. Which instructions are well formed: those some encoding stands for (spec/30_encoding.md R94, R99). The
types already bound every field; the one check left is that an A2 immediate is not zero. -/

namespace Sys2Proof

/-- "An immediate of zero cannot be encoded": `v = 0` is the register form (R94). -/
def A2Operand.wellFormed : A2Operand → Bool
  | .reg _ => true
  | .imm v => v != 0#4

/-- Whether some encoding stands for the instruction (R99: every other value of every field is legal). -/
def Instr.wellFormed : Instr → Bool
  | .nop => true
  | .int => true
  | .eni => true
  | .dei => true
  | .rst => true
  | .hlt => true
  | .swp => true
  | .reserved07 => true
  | .cmp => true
  | .ret => true
  | .cmu => true
  | .reserved0B => true
  | .reserved0C _ => true
  | .pus _ => true
  | .pop _ => true
  | .reserved18 _ => true
  | .reserved1C _ => true
  | .reserved1E => true
  | .ljp _ => true
  | .unassigned20 _ => true
  | .jmr _ => true
  | .jzr _ => true
  | .jnr _ => true
  | .jlr _ => true
  | .jgr _ => true
  | .jor _ => true
  | .jur _ => true
  | .reserved40 _ => true
  | .mov _ _ => true
  | .lod _ _ => true
  | .sto _ _ => true
  | .add _ o => o.wellFormed
  | .sub _ o => o.wellFormed
  | .mul _ o => o.wellFormed
  | .div _ o => o.wellFormed
  | .mod _ o => o.wellFormed
  | .reserved85 => true
  | .reserved86 _ => true
  | .neg _ => true
  | .not _ => true
  | .and _ _ => true
  | .ior _ _ => true
  | .xor _ _ => true
  | .rcl _ => true
  | .cal _ => true
  | .unassignedD1 => true
  | .unassignedD2 _ => true
  | .rcr _ => true
  | .car _ _ => true
  | .scl _ o => o.wellFormed
  | .scr _ o => o.wellFormed
  | .reservedDE => true
  | .irf _ => true
  | .laa _ _ => true
  | .rol _ o => o.wellFormed
  | .ror _ o => o.wellFormed
  | .shl _ o => o.wellFormed
  | .shr _ o => o.wellFormed
  | .cli _ _ _ => true
  | .jmp _ => true
  | .jiz _ => true
  | .jnz _ => true
  | .jlt _ => true
  | .jge _ => true
  | .jof _ => true
  | .jnf _ => true
  | .ldi _ _ _ => true
  | .sti _ _ _ => true
  | .lri _ _ _ _ => true
  | .sri _ _ _ _ => true
  | .mvi _ _ => true
  | .inc _ => true
  | .dec _ => true

end Sys2Proof
end

