-- ==== Sys2Proof/Decode.lean ====
section
/-! DEFINITION. The decoder and the encoder, both written from spec/30_encoding.md: the opcode map (R95) as a list of
rows with a mask and a pattern on byte 0 (section 6), each with the length (R90) and the fields (R91) of its format. -/

namespace Sys2Proof

/-- The AD column of the register table (R20, R92). -/
def Reg.code : Reg → BitVec 2
  | .ax => 0b00#2
  | .bx => 0b01#2
  | .cx => 0b10#2
  | .sp => 0b11#2

/-- The register a two-bit selector names; all four values are legal (R92). -/
def Reg.ofCode (c : BitVec 2) : Reg :=
  if c = 0b00#2 then .ax else if c = 0b01#2 then .bx else if c = 0b10#2 then .cx else .sp

/-! ### Fields (R91) -/

/-- The selector in bits 1:0: `r` of R1 and RL3, the LSB register `l` of the others. -/
def fieldLow (b : Byte) : Reg := Reg.ofCode (b.extractLsb' 0 2)

/-- The selector in bits 3:2: the MSB register `m` of RR1, A2 and X2, the middle register `d` of Y2. -/
def fieldMid (b : Byte) : Reg := Reg.ofCode (b.extractLsb' 2 2)

/-- The selector in bits 5:4: the MSB register `m` of Y2. -/
def fieldHigh (b : Byte) : Reg := Reg.ofCode (b.extractLsb' 4 2)

/-- The 4-bit immediate in bits 7:4 (A2, X2). -/
def fieldV4 (b : Byte) : BitVec 4 := b.extractLsb' 4 4

/-- The 2-bit immediate in bits 7:6 (Y2). -/
def fieldV2 (b : Byte) : BitVec 2 := b.extractLsb' 6 2

/-- The second operand of an A2 instruction from its second byte: register form when `v = 0`, else immediate form with
bits 1:0 ignored (R94, R98). -/
def fieldA2 (b : Byte) : A2Operand :=
  if fieldV4 b = 0#4 then .reg (fieldLow b) else .imm (fieldV4 b)

/-! ### The opcode map (R95) -/

/-- One row: the bytes `b` with `b AND mask = pattern` select it, `length` is the number of bytes (`none` where the spec
knows none, R96, R97), `build` reads the fields of its format from bytes 0, 1 and 2. -/
structure OpcodeRow where
  pattern : Byte
  mask : Byte
  length : Option Nat
  build : Byte → Byte → Byte → Instr

/-- Whether a first byte selects the row (section 6). -/
def OpcodeRow.selects (row : OpcodeRow) (b : Byte) : Bool := b &&& row.mask == row.pattern

/-- Format N1: one byte, no field. -/
def rowN1 (pattern : Byte) (i : Instr) : OpcodeRow := ⟨pattern, 0xFF, some 1, fun _ _ _ => i⟩

/-- Format R1: one byte, `r` in bits 1:0. -/
def rowR1 (pattern : Byte) (f : Reg → Instr) : OpcodeRow := ⟨pattern, 0xFC, some 1, fun b0 _ _ => f (fieldLow b0)⟩

/-- Format RR1: one byte, `m` in bits 3:2, `l` in bits 1:0. -/
def rowRR1 (pattern : Byte) (f : Reg → Reg → Instr) : OpcodeRow :=
  ⟨pattern, 0xF0, some 1, fun b0 _ _ => f (fieldMid b0) (fieldLow b0)⟩

/-- Format V1: one byte, the count in bits 3:0. -/
def rowV1 (pattern : Byte) (f : BitVec 4 → Instr) : OpcodeRow :=
  ⟨pattern, 0xF0, some 1, fun b0 _ _ => f (b0.extractLsb' 0 4)⟩

/-- Format A2: two bytes, the second `vvvvmmll` in its two forms (R94). -/
def rowA2 (pattern : Byte) (f : Reg → A2Operand → Instr) : OpcodeRow :=
  ⟨pattern, 0xFF, some 2, fun _ b1 _ => f (fieldMid b1) (fieldA2 b1)⟩

/-- Format I2: two bytes, the second an 8-bit immediate. -/
def rowI2 (pattern : Byte) (f : Byte → Instr) : OpcodeRow := ⟨pattern, 0xFF, some 2, fun _ b1 _ => f b1⟩

/-- Format M2: two bytes, the mask in bits 7:5 of the second, bits 4:0 ignored (R98). -/
def rowM2 (pattern : Byte) (f : Bool → Bool → Bool → Instr) : OpcodeRow :=
  ⟨pattern, 0xFF, some 2, fun _ b1 _ => f (b1.getLsbD 7) (b1.getLsbD 6) (b1.getLsbD 5)⟩

/-- Format X2: two bytes, the second `vvvvmmll`. -/
def rowX2 (pattern : Byte) (f : Reg → Reg → BitVec 4 → Instr) : OpcodeRow :=
  ⟨pattern, 0xFF, some 2, fun _ b1 _ => f (fieldMid b1) (fieldLow b1) (fieldV4 b1)⟩

/-- Format Y2: two bytes, the second `vvmmddll`. -/
def rowY2 (pattern : Byte) (f : Reg → Reg → Reg → BitVec 2 → Instr) : OpcodeRow :=
  ⟨pattern, 0xFF, some 2, fun _ b1 _ => f (fieldHigh b1) (fieldMid b1) (fieldLow b1) (fieldV2 b1)⟩

/-- Format L3: three bytes, a big-endian address. -/
def rowL3 (pattern : Byte) (f : Word → Instr) : OpcodeRow :=
  ⟨pattern, 0xFF, some 3, fun _ b1 b2 => f (joinBytes b1 b2)⟩

/-- Format RL3: three bytes, `r` in bits 1:0 of the first, then a big-endian address or value. -/
def rowRL3 (pattern : Byte) (f : Reg → Word → Instr) : OpcodeRow :=
  ⟨pattern, 0xFC, some 3, fun b0 b1 b2 => f (fieldLow b0) (joinBytes b1 b2)⟩

/-- A reserved or unassigned row (R96, R97): no length is known, and the bits its mask leaves free are kept. -/
def rowNone (pattern mask : Byte) (f : Byte → Instr) : OpcodeRow := ⟨pattern, mask, none, fun b0 _ _ => f b0⟩

/-- First bytes `00` to `23`. -/
def rowsControl : List OpcodeRow :=
  [ rowN1 0x00 .nop, rowN1 0x01 .int, rowN1 0x02 .eni, rowN1 0x03 .dei, rowN1 0x04 .rst, rowN1 0x05 .hlt,
    rowN1 0x06 .swp, rowNone 0x07 0xFF fun _ => .reserved07, rowN1 0x08 .cmp, rowN1 0x09 .ret, rowN1 0x0A .cmu,
    rowNone 0x0B 0xFF fun _ => .reserved0B, rowNone 0x0C 0xFC fun b => .reserved0C (b.extractLsb' 0 2),
    rowR1 0x10 .pus, rowR1 0x14 .pop, rowNone 0x18 0xFC fun b => .reserved18 (b.extractLsb' 0 2),
    rowNone 0x1C 0xFE fun b => .reserved1C (b.extractLsb' 0 1), rowNone 0x1E 0xFF fun _ => .reserved1E,
    rowL3 0x1F .ljp, rowNone 0x20 0xFC fun b => .unassigned20 (b.extractLsb' 0 2) ]

/-- First bytes `24` to `7F`. -/
def rowsJumpMove : List OpcodeRow :=
  [ rowR1 0x24 .jmr, rowR1 0x28 .jzr, rowR1 0x2C .jnr, rowR1 0x30 .jlr, rowR1 0x34 .jgr, rowR1 0x38 .jor,
    rowR1 0x3C .jur, rowNone 0x40 0xF0 fun b => .reserved40 (b.extractLsb' 0 4), rowRR1 0x50 .mov, rowRR1 0x60 .lod,
    rowRR1 0x70 .sto ]

/-- First bytes `80` to `BF`. -/
def rowsArithmeticBitwise : List OpcodeRow :=
  [ rowA2 0x80 .add, rowA2 0x81 .sub, rowA2 0x82 .mul, rowA2 0x83 .div, rowA2 0x84 .mod,
    rowNone 0x85 0xFF fun _ => .reserved85, rowNone 0x86 0xFE fun b => .reserved86 (b.extractLsb' 0 1),
    rowR1 0x88 .neg, rowR1 0x8C .not, rowRR1 0x90 .and, rowRR1 0xA0 .ior, rowRR1 0xB0 .xor ]

/-- First bytes `C0` to `E7`. -/
def rowsSubroutineShift : List OpcodeRow :=
  [ rowV1 0xC0 .rcl, rowL3 0xD0 .cal, rowNone 0xD1 0xFF fun _ => .unassignedD1,
    rowNone 0xD2 0xFE fun b => .unassignedD2 (b.extractLsb' 0 1), rowR1 0xD4 .rcr, rowRL3 0xD8 .car,
    rowA2 0xDC .scl, rowA2 0xDD .scr, rowNone 0xDE 0xFF fun _ => .reservedDE, rowI2 0xDF .irf, rowRL3 0xE0 .laa,
    rowA2 0xE4 .rol, rowA2 0xE5 .ror, rowA2 0xE6 .shl, rowA2 0xE7 .shr ]

/-- First bytes `E8` to `FF`. -/
def rowsBranchIndexed : List OpcodeRow :=
  [ rowM2 0xE8 .cli, rowI2 0xE9 .jmp, rowI2 0xEA .jiz, rowI2 0xEB .jnz, rowI2 0xEC .jlt, rowI2 0xED .jge,
    rowI2 0xEE .jof, rowI2 0xEF .jnf, rowX2 0xF0 .ldi, rowX2 0xF1 .sti, rowY2 0xF2 .lri, rowY2 0xF3 .sri,
    rowRL3 0xF4 .mvi, rowR1 0xF8 .inc, rowR1 0xFC .dec ]

/-- The opcode map: 73 rows in the order of the first byte (R95). -/
def opcodeMap : List OpcodeRow :=
  rowsControl ++ rowsJumpMove ++ rowsArithmeticBitwise ++ rowsSubroutineShift ++ rowsBranchIndexed

/-- The row a first byte selects (R104). -/
def rowOf (b : Byte) : Option OpcodeRow := opcodeMap.find? fun row => row.selects b

/-- The length of an instruction from its first byte (R90); `none` on a reserved or unassigned byte (R96, R97). -/
def instrLength (b : Byte) : Option Nat := (rowOf b).bind fun row => row.length

/-- How many bytes a fetch reads once it has the first: the length, or that one byte alone where the spec knows no
length. DESIGN CHOICE, log 15; safe: such a byte faults whatever follows it. -/
def fetchLength (b : Byte) : Nat := (instrLength b).getD 1

/-- Why `decode` rejects a list of bytes. -/
inductive DecodeError where
  /-- There is no first byte. -/
  | noBytes
  /-- The instruction of this first byte is longer than the list. -/
  | truncated (first : Byte)
  /-- No row has this first byte (the map accounts for every byte, R95, so no byte is answered this way). -/
  | noRow (first : Byte)
  deriving DecidableEq, Repr

/-- Decode the first instruction of a list of bytes and leave the rest (R104). It depends on no machine state. -/
def decode : List Byte → Except DecodeError (Instr × List Byte)
  | [] => .error .noBytes
  | b0 :: rest =>
    match rowOf b0 with
    | none => .error (.noRow b0)
    | some row =>
      let tail := fetchLength b0 - 1
      if rest.length < tail then .error (.truncated b0)
      else .ok (row.build b0 (rest.getD 0 0) (rest.getD 1 0), rest.drop tail)

/-- The three bytes of an instruction given as a number, bit 0 the least significant bit of byte 0, byte 1 in bits 15:8
and byte 2 in bits 23:16; every bit above `nbits` is 0. -/
def tableBytes (nbits w : Nat) : List Byte :=
  let v := w % 2 ^ nbits
  [BitVec.ofNat 8 v, BitVec.ofNat 8 (v / 2 ^ 8), BitVec.ofNat 8 (v / 2 ^ 16)]

/-- The instruction the decoder reads from an instruction given as a number. -/
def decodeTableWord (nbits w : Nat) : Option Instr :=
  match decode (tableBytes nbits w) with
  | .ok (i, _) => some i
  | .error _ => none

/-! ### The encoder (R91) -/

/-- Byte 0 of R1 and RL3. -/
def byteR (op : BitVec 6) (r : Reg) : Byte := op ++ r.code

/-- Byte 0 of RR1. -/
def byteRR (op : BitVec 4) (m l : Reg) : Byte := (op ++ m.code : BitVec 6) ++ l.code

/-- Byte 1 of A2 (R94); the ignored bits of the immediate form are written 00 (R98). -/
def byteA2 (m : Reg) : A2Operand → Byte
  | .reg l => byteRR 0#4 m l
  | .imm v => byteRR v m .ax

/-- Byte 1 of M2; the ignored bits are written 0 (R98). -/
def byteM2 (z c s : Bool) : Byte :=
  (BitVec.ofBool z ++ BitVec.ofBool c : BitVec 2) ++ (BitVec.ofBool s ++ 0#5 : BitVec 6)

/-- Byte 1 of Y2. -/
def byteY2 (v : BitVec 2) (m d l : Reg) : Byte := (v ++ m.code : BitVec 4) ++ (d.code ++ l.code : BitVec 4)

/-- The bytes of a well-formed instruction (R91, R95); of a reserved or unassigned one, its first byte. -/
def encode : Instr → List Byte
  | .nop => [0x00]
  | .int => [0x01]
  | .eni => [0x02]
  | .dei => [0x03]
  | .rst => [0x04]
  | .hlt => [0x05]
  | .swp => [0x06]
  | .reserved07 => [0x07]
  | .cmp => [0x08]
  | .ret => [0x09]
  | .cmu => [0x0A]
  | .reserved0B => [0x0B]
  | .reserved0C low => [0b000011#6 ++ low]
  | .pus r => [byteR 0b000100 r]
  | .pop r => [byteR 0b000101 r]
  | .reserved18 low => [0b000110#6 ++ low]
  | .reserved1C low => [0b0001110#7 ++ low]
  | .reserved1E => [0x1E]
  | .ljp a => [0x1F, hiByte a, loByte a]
  | .unassigned20 low => [0b001000#6 ++ low]
  | .jmr r => [byteR 0b001001 r]
  | .jzr r => [byteR 0b001010 r]
  | .jnr r => [byteR 0b001011 r]
  | .jlr r => [byteR 0b001100 r]
  | .jgr r => [byteR 0b001101 r]
  | .jor r => [byteR 0b001110 r]
  | .jur r => [byteR 0b001111 r]
  | .reserved40 low => [0b0100#4 ++ low]
  | .mov m l => [byteRR 0b0101 m l]
  | .lod m l => [byteRR 0b0110 m l]
  | .sto m l => [byteRR 0b0111 m l]
  | .add m o => [0x80, byteA2 m o]
  | .sub m o => [0x81, byteA2 m o]
  | .mul m o => [0x82, byteA2 m o]
  | .div m o => [0x83, byteA2 m o]
  | .mod m o => [0x84, byteA2 m o]
  | .reserved85 => [0x85]
  | .reserved86 low => [0b1000011#7 ++ low]
  | .neg r => [byteR 0b100010 r]
  | .not r => [byteR 0b100011 r]
  | .and m l => [byteRR 0b1001 m l]
  | .ior m l => [byteRR 0b1010 m l]
  | .xor m l => [byteRR 0b1011 m l]
  | .rcl v => [0b1100#4 ++ v]
  | .cal a => [0xD0, hiByte a, loByte a]
  | .unassignedD1 => [0xD1]
  | .unassignedD2 low => [0b1101001#7 ++ low]
  | .rcr r => [byteR 0b110101 r]
  | .car r a => [byteR 0b110110 r, hiByte a, loByte a]
  | .scl m o => [0xDC, byteA2 m o]
  | .scr m o => [0xDD, byteA2 m o]
  | .reservedDE => [0xDE]
  | .irf k => [0xDF, k]
  | .laa r a => [byteR 0b111000 r, hiByte a, loByte a]
  | .rol m o => [0xE4, byteA2 m o]
  | .ror m o => [0xE5, byteA2 m o]
  | .shl m o => [0xE6, byteA2 m o]
  | .shr m o => [0xE7, byteA2 m o]
  | .cli z c s => [0xE8, byteM2 z c s]
  | .jmp d => [0xE9, d]
  | .jiz d => [0xEA, d]
  | .jnz d => [0xEB, d]
  | .jlt d => [0xEC, d]
  | .jge d => [0xED, d]
  | .jof d => [0xEE, d]
  | .jnf d => [0xEF, d]
  | .ldi m l v => [0xF0, byteRR v m l]
  | .sti m l v => [0xF1, byteRR v m l]
  | .lri m d l v => [0xF2, byteY2 v m d l]
  | .sri m d l v => [0xF3, byteY2 v m d l]
  | .mvi r k => [byteR 0b111101 r, hiByte k, loByte k]
  | .inc r => [byteR 0b111110 r]
  | .dec r => [byteR 0b111111 r]

end Sys2Proof
end

