-- ==== Sys2Proof/Config.lean ====
section
/-! DEFINITION. The parameters of the machine (spec/00_scope.md R5): the two fixed addresses, and the OPEN parameters
as constants without a body, so that nothing proved in Lean can depend on their values. -/

namespace Sys2Proof.Config

/-- `RESET_PC` (R5, R36, decision D5): where execution starts after reset. -/
def resetPc : Word := 0x0000#16

/-- `INT_VECTOR` (R5, R317, decision D6): where an interrupt enters. Named apart from `resetPc` although the two are
equal (90_conflicts.md C18). -/
def intVector : Word := 0x0000#16

/-- `Draw` for one flag or bit (R5, R8 `draw()`, U5): the n-th free value. DESIGN CHOICE, log 9; safe: it has no body. -/
opaque drawFlag : Nat → Bool

/-- `Draw` for the 8-bit RF after reset (R36, R351, U15). DESIGN CHOICE, log 9; safe: it has no body. -/
opaque drawByte : Nat → Byte

/-- `Draw` for a 16-bit register after reset (R36, R351, U15). DESIGN CHOICE, log 9; safe: it has no body. -/
opaque drawWord : Nat → Word

/-- `DivMod` (R5, R185) where the spec's one law does not fix it: (quotient, remainder) of its operands, under no law
(U3). DESIGN CHOICE, log 10; safe: it has no body. -/
opaque divModOpen : Word → Word → Word × Word

end Sys2Proof.Config
end

