-- ==== Sys2Proof/Machine/State.lean ====
section
/-! DEFINITION. The state of the JakVM as plain data (spec/10_state.md R20 to R37, spec/20_memory.md R60), the reasons
a step can stop (spec/93_implementation_defined.md), and the state right after reset. -/

namespace Sys2Proof.Machine

/-- The three named flags of RS (R26). The layout of the 8-bit RS and its other five bits are not in any source (D16);
nothing reads RS as a byte. Log 17. -/
structure Flags where
  z : Bool
  c : Bool
  s : Bool
  deriving DecidableEq, Repr

/-- IS, the interrupt state (R33): the saved AX, BX, CX, SP, PC and RS, and the mark `valid`. The saved RF and the
8-bit "return address" of the source's size formula are not held (C4, C5, U13). Log 18. -/
structure InterruptState where
  ax : Word
  bx : Word
  cx : Word
  sp : Word
  pc : Word
  rs : Flags
  valid : Bool
  deriving DecidableEq, Repr

/-- What `Emit` sends to the host (R8): the one event is that of SWP (R136). -/
inductive OutputEvent where
  | swapBuffers
  deriving DecidableEq, Repr

/-- Memory (R60) as (address, byte) pairs in one canonical form: addresses strictly rising and below 2^16
(`Memory.wf`). An address that is not listed holds no value (R37: "holds no known value"), as `MemInit` gives `none`
(R5). Log 6. -/
abbrev Memory := List Host.Cell

/-- The state of the machine. `env` and `output` are the environment's side (R313, R136) as data; `draws` and `stuck`
are the model's own fields (logs 9 and 12). -/
structure State where
  /-- AX, selector 00 (R20). -/
  ax : Word
  /-- BX, selector 01 (R20). -/
  bx : Word
  /-- CX, selector 10 (R20). -/
  cx : Word
  /-- SP, selector 11, the implicit stack pointer (R20, R22). -/
  sp : Word
  /-- PC: between instructions the address of the next one, during one the address of its first byte (R23, R24). -/
  pc : Word
  /-- RS as its three flags (R26). -/
  rs : Flags
  /-- RF, the interrupt flags (R29). -/
  rf : Byte
  /-- IE, interrupt enable (R30). -/
  ie : Bool
  /-- INH, the in-handler mark (R31). -/
  inh : Bool
  /-- SLEEP, the sleep mark (R32). -/
  sleep : Bool
  /-- IS, the interrupt state (R33). -/
  is : InterruptState
  /-- The 64 KiB memory (R60). -/
  mem : Memory
  /-- The values the environment has yet to give, one per boundary; past its end it gives 0 (R313, log 8). -/
  env : List Byte
  /-- The events emitted so far, oldest first (R136, log 16). -/
  output : List OutputEvent
  /-- How many values of `Draw` have been used (model's own, log 9). -/
  draws : Nat
  /-- The mark of U8: the machine takes no further step (model's own, log 12). -/
  stuck : Bool
  deriving DecidableEq, Repr

/-- Why the machine stops. The JakVM has no synchronous exception (R310): these are the spec's `unspecified(U<n>)`
cases, to which it gives no effect (R311). All are safe: the model stops where the hardware may go on. -/
inductive Fault where
  /-- U1 (R96, R97): a reserved or unassigned first byte is executed. Raised by the meanings of those rows. Safe. -/
  | reservedOpcode (b : Byte)
  /-- U2 (R185, R186): DIV or MOD with second operand 0. Raised by DIV and MOD. Safe. -/
  | divideByZero
  /-- U4 (R230): a shift or rotate by this amount, 16 or more. Raised by SCL, SCR, ROL, ROR, SHL and SHR. Safe. -/
  | shiftAmount (n : Nat)
  /-- U6 (R131): INT with IE = 0 or INH = 1. Raised by INT. Safe. -/
  | intNotAccepted
  /-- U7 (R138): RET with IS never filled since reset. Raised by RET. Safe. -/
  | retBeforeEntry
  /-- U8 (R135): a step of a machine that HLT has left stuck. Raised by the step alone. Safe. -/
  | stuckAfterHlt
  /-- U9 (R37, R63, R77): a read or a fetch of a byte that holds no value. Raised by the loads, POP, RCL, RCR and the
  fetch. Safe. -/
  | unwrittenByte (a : Word)
  deriving DecidableEq, Repr

/-- Why the model gives no meaning. Both are safe: no claim about a next state follows from a refusal. -/
inductive Refusal where
  /-- The instruction of this mnemonic has no meaning yet. Raised by `exec` alone; no arm raises it now. Safe. -/
  | notModelled (mnemonic : String)
  /-- The fetched bytes decode to nothing. Raised by the step; never answered, since the opcode map accounts for every
  first byte (R95). Safe. -/
  | undecodable
  deriving DecidableEq, Repr

/-- What a meaning answers. -/
abbrev Result := Host.Outcome State Fault Refusal

/-- The state right after reset (R36): PC, INH, SLEEP and IS.valid as R36 and R351 give them. Every other value is one
the spec leaves unspecified: 0 for the registers, the flags, RF, IE and IS is a DESIGN CHOICE, unsafe (logs 1 to 5).
No byte of memory is listed (log 6, log 7). -/
def State.reset : State where
  ax := 0#16
  bx := 0#16
  cx := 0#16
  sp := 0#16
  pc := Config.resetPc
  rs := ⟨false, false, false⟩
  rf := 0#8
  ie := false
  inh := false
  sleep := false
  is := ⟨0#16, 0#16, 0#16, 0#16, 0#16, ⟨false, false, false⟩, false⟩
  mem := []
  env := []
  output := []
  draws := 0
  stuck := false

end Sys2Proof.Machine
end

