-- ==== Sys2Proof/Machine/Memory.lean ====
section
/-! DEFINITION. Reading and writing one byte of memory, and the canonical form (spec/20_memory.md R60, R63). -/

namespace Sys2Proof.Machine

/-- The byte at an address, `none` where nothing has written it and no image gives it (R37, R63). -/
def Memory.read : Memory → Nat → Option Byte
  | [], _ => none
  | (k, v) :: rest, a => if a = k then some v else Memory.read rest a

/-- Replace the byte at an address (R63), keeping the addresses strictly rising. -/
def Memory.write : Memory → Nat → Byte → Memory
  | [], a, v => [(a, v)]
  | (k, w) :: rest, a, v =>
    if a < k then (a, v) :: (k, w) :: rest
    else if a = k then (a, v) :: rest
    else (k, w) :: Memory.write rest a v

/-- The addresses rise strictly, from above `low` where one is given, and stay below 2^16. -/
def Memory.risesFrom : Option Nat → Memory → Bool
  | _, [] => true
  | low, (k, _) :: rest =>
    (match low with | none => true | some l => decide (l < k)) && decide (k < 65536) && Memory.risesFrom (some k) rest

/-- The canonical form: addresses strictly rising, all below 2^16 (R60). An unlisted address holds no value, so no entry
can equal what an unlisted address reads as. -/
def Memory.wf (m : Memory) : Bool := Memory.risesFrom none m

/-- `MemRead(a, 1)`: the byte at `a mod 2^16` (R63). -/
def State.readByte (s : State) (a : Word) : Option Byte := s.mem.read a.toNat

/-- `MemWrite(a, 1, v)` (R63). -/
def State.writeByte (s : State) (a : Word) (v : Byte) : State := { s with mem := s.mem.write a.toNat v }

end Sys2Proof.Machine
end

