-- ==== Sys2Proof/Machine/Ops.lean ====
section
/-! DEFINITION. The named operations over the state: registers and PC (spec/10_state.md R20 to R25), multi-byte memory
and the stack (spec/20_memory.md R63, R65, R74, R75), interrupt entry and return (spec/60_exceptions.md R313 to R319),
reset (spec/70_reset_and_hazards.md R351). -/

namespace Sys2Proof.Machine

/-! ### Registers and PC -/

/-- `x[r]` (R8, R20). -/
def State.get (s : State) : Reg → Word
  | .ax => s.ax
  | .bx => s.bx
  | .cx => s.cx
  | .sp => s.sp

/-- `x[r] <- v`: all 16 bits (R8, R21); no register is hardwired (R20). -/
def State.set (s : State) (r : Reg) (v : Word) : State :=
  { s with
    ax := if r = .ax then v else s.ax
    bx := if r = .bx then v else s.bx
    cx := if r = .cx then v else s.cx
    sp := if r = .sp then v else s.sp }

/-- `pc <- (pc + L) mod 2^16`, the sequential advance (R25). -/
def State.advance (s : State) (length : Nat) : State := { s with pc := s.pc + BitVec.ofNat 16 length }

/-- `pc <- t` (R8); any 16-bit target is legal (R25). -/
def State.jump (s : State) (target : Word) : State := { s with pc := target }

/-- A conditional jump: `pc <- target` where the condition holds, else the sequential advance (R153, R266). -/
def State.jumpIf (s : State) (cond : Bool) (target : Word) (length : Nat) : State :=
  if cond then s.jump target else s.advance length

/-! ### Memory in words -/

/-- Go on with `MemRead(a, 1)`, or stop where the byte holds no value (R63, U9). -/
def State.withByte (s : State) (a : Word) (k : Byte → Result) : Result :=
  match s.readByte a with
  | some b => k b
  | none => .fault (.unwrittenByte a)

/-- Go on with `MemRead(a, 2)`, big-endian, the address wrapping (R62, R63). -/
def State.withWord (s : State) (a : Word) (k : Word → Result) : Result :=
  s.withByte a fun h => s.withByte (a + 1#16) fun l => k (joinBytes h l)

/-- `MemWrite(a, 2, v)`, big-endian, the address wrapping (R62, R63). -/
def State.writeWord (s : State) (a v : Word) : State :=
  (s.writeByte a (hiByte v)).writeByte (a + 1#16) (loByte v)

/-- `b :: lo(x[m])` into `x[m]`: a load writes bits 15:8 and keeps bits 7:0 (R65). -/
def State.setHigh (s : State) (m : Reg) (b : Byte) : State := s.set m (joinBytes b (loByte (s.get m)))

/-- A load of the byte at `a` into the high byte of `m`, then the advance (R65, R162, R241, R285, R287). -/
def State.loadHigh (s : State) (m : Reg) (a : Word) (length : Nat) : Result :=
  s.withByte a fun b => .next ((s.setHigh m b).advance length)

/-- A store of the high byte of `l` at `a`, then the advance (R65, R163, R286, R288). -/
def State.storeHigh (s : State) (l : Reg) (a : Word) (length : Nat) : Result :=
  .next ((s.writeByte a (hiByte (s.get l))).advance length)

/-! ### The stack primitives -/

/-- `Push16(v)`: low byte at SP, high byte at SP - 1, SP down by 2 (R74). -/
def State.push16 (s : State) (v : Word) : State :=
  let s1 := { s.writeByte s.sp (loByte v) with sp := s.sp - 1#16 }
  { s1.writeByte s1.sp (hiByte v) with sp := s1.sp - 1#16 }

/-- `Pop16()`: SP up by one, high byte; SP up by one, low byte; go on with the word and the state whose SP has moved
(R75). -/
def State.pop16 (s : State) (k : Word → State → Result) : Result :=
  let s1 := { s with sp := s.sp + 1#16 }
  s1.withByte s1.sp fun h =>
    let s2 := { s1 with sp := s1.sp + 1#16 }
    s2.withByte s2.sp fun l => k (joinBytes h l) s2

/-! ### Interrupts -/

/-- The value `e` the environment gives at this boundary; 0 when it has none left to give (R313). Log 8. -/
def State.event (s : State) : Byte := s.env.headD 0#8

/-- Arrival: `RF <- RF OR e`, whatever IE, INH and SLEEP are (R313). -/
def State.arrive (s : State) : State := { s with rf := s.rf ||| s.event, env := s.env.tail }

/-- Recognition: `IE == 1 and INH == 0 and RF != 0x00` (R315). -/
def State.entryDue (s : State) : Bool := s.ie && !s.inh && s.rf != 0#8

/-- `InterruptEntry(ret)`: the one way an interrupt is taken, external, by INT or on waking (R317). -/
def State.interruptEntry (s : State) (ret : Word) : State :=
  { s with
    is := ⟨s.ax, s.bx, s.cx, s.sp, ret, s.rs, true⟩
    inh := true
    sleep := false
    pc := Config.intVector }

/-- The return from the interrupt routine: everything IS holds comes back, RF and INH are cleared, IE and IS itself stay
(R138, R319). -/
def State.interruptReturn (s : State) : State :=
  { s with
    ax := s.is.ax
    bx := s.is.bx
    cx := s.is.cx
    sp := s.is.sp
    rs := s.is.rs
    rf := 0#8
    inh := false
    pc := s.is.pc }

/-- `Emit(e)`: record an output event for the host (R8, R136). -/
def State.emit (s : State) (e : OutputEvent) : State := { s with output := s.output ++ [e] }

/-! ### Reset -/

/-- The values that reset leaves unspecified (R36, R351). -/
structure ResetValues where
  ax : Word
  bx : Word
  cx : Word
  sp : Word
  rs : Flags
  rf : Byte
  ie : Bool
  isAx : Word
  isBx : Word
  isCx : Word
  isSp : Word
  isPc : Word
  isRs : Flags
  deriving DecidableEq, Repr

/-- `Reset()` (R351) with given values for what it leaves unspecified. Memory is kept (R350). -/
def State.resetTo (s : State) (u : ResetValues) : State :=
  { s with
    pc := Config.resetPc
    inh := false
    sleep := false
    is := ⟨u.isAx, u.isBx, u.isCx, u.isSp, u.isPc, u.isRs, false⟩
    ax := u.ax
    bx := u.bx
    cx := u.cx
    sp := u.sp
    rs := u.rs
    rf := u.rf
    ie := u.ie }

/-- The n-th flags drawn: Z, C and S each a value of its own (R28, U5). -/
def drawnFlags (n : Nat) : Flags := ⟨Config.drawFlag n, Config.drawFlag (n + 1), Config.drawFlag (n + 2)⟩

/-- The unspecified values of a reset, each a fresh draw (R351: "Each 'unspecified' is a fresh one"). Log 11. -/
def drawnResetValues (n : Nat) : ResetValues where
  ax := Config.drawWord n
  bx := Config.drawWord (n + 1)
  cx := Config.drawWord (n + 2)
  sp := Config.drawWord (n + 3)
  isAx := Config.drawWord (n + 4)
  isBx := Config.drawWord (n + 5)
  isCx := Config.drawWord (n + 6)
  isSp := Config.drawWord (n + 7)
  isPc := Config.drawWord (n + 8)
  rs := drawnFlags (n + 9)
  isRs := drawnFlags (n + 12)
  ie := Config.drawFlag (n + 15)
  rf := Config.drawByte (n + 16)

/-- How many draws a reset uses. -/
def resetDraws : Nat := 17

/-- The reset of a running machine, each unspecified value a fresh draw (R351, U15). -/
def State.resetDrawn (s : State) : State :=
  { s.resetTo (drawnResetValues s.draws) with draws := s.draws + resetDraws }

/-- The start of the machine (R350): memory from `MemInit`, the unspecified values `u`, an environment still to come.
`State.reset` is the one of these with an empty image, zeros and a silent environment (logs 1 to 8). -/
def State.powerOn (image : Memory) (u : ResetValues) (env : List Byte) : State :=
  { State.reset.resetTo u with mem := image, env := env }

end Sys2Proof.Machine
end

