-- ==== Sys2Proof/Machine/Operands.lean ====
section
/-! DEFINITION. Every operand form and effective address (spec/30_encoding.md R94; spec/42_arithmetic.md R180;
spec/45_shift_with_carry.md R230; spec/48_local_branch.md R266; spec/49_indexed_immediate_inc.md R285 to R288), and the
values the arithmetic and shift instructions compute. -/

namespace Sys2Proof.Machine

/-! ### Operands and addresses -/

/-- The second operand `b` of an A2 instruction: `x[l]`, or the zero-extended immediate (R94, R180). -/
def State.operand (s : State) : A2Operand → Word
  | .reg l => s.get l
  | .imm v => zext4 v

/-- The shift amount `n`: the whole second operand read as unsigned (R230). -/
def State.amount (s : State) (o : A2Operand) : Nat := (s.operand o).toNat

/-- The target of a local branch: the address of the branch's own first byte plus the signed displacement (R266). -/
def State.branchTarget (s : State) (d : Byte) : Word := s.pc + sext8 d

/-- The address of LDI and STI: base register plus imm4 (R285, R286). -/
def State.indexed (s : State) (base : Reg) (v : BitVec 4) : Word := s.get base + zext4 v

/-- The address of LRI and SRI: two registers plus imm2 (R287, R288). -/
def State.indexed2 (s : State) (r1 r2 : Reg) (v : BitVec 2) : Word := s.get r1 + s.get r2 + zext2 v

/-- The return address CAL and CAR save: `(pc + 3) mod 2^16` (R216, R218). -/
def State.returnAddress (s : State) : Word := s.pc + 3#16

/-! ### Division -/

/-- `DivMod(a, b)` for `b` not zero: the floor quotient and its remainder where `0 <= a <= 0x7FFF` and
`1 <= b <= 0x7FFF`, and a free value of the operands everywhere else (R185, R186, U3). Log 10. -/
def divMod (a b : Word) : Word × Word :=
  if a.toNat ≤ 0x7FFF ∧ 1 ≤ b.toNat ∧ b.toNat ≤ 0x7FFF then
    (BitVec.ofNat 16 (a.toNat / b.toNat), BitVec.ofNat 16 (a.toNat % b.toNat))
  else Config.divModOpen a b

/-! ### Shifts and rotates by `n`, for `1 <= n <= 15` -/

/-- SCL: left, every vacated bit the old C (R231). -/
def sclValue (a : Word) (n : Nat) (c : Bool) : Word := a <<< n ||| (if c then lowOnes n else 0#16)

/-- SCL's new C: the last bit shifted out, `a[16 - n]` (R231). -/
def sclCarry (a : Word) (n : Nat) : Bool := a.getLsbD (16 - n)

/-- SCR and SHR: right, every vacated bit the fill bit (R232, R254). -/
def fillRight (a : Word) (n : Nat) (fill : Bool) : Word := a >>> n ||| (if fill then highOnes n else 0#16)

/-- SCR's new C: the last bit shifted out, `a[n - 1]` (R232). -/
def scrCarry (a : Word) (n : Nat) : Bool := a.getLsbD (n - 1)

/-- ROL: the 16 bits among themselves, to the left (R251). -/
def rolValue (a : Word) (n : Nat) : Word := a <<< n ||| a >>> (16 - n)

/-- ROR: the 16 bits among themselves, to the right (R252). -/
def rorValue (a : Word) (n : Nat) : Word := a >>> n ||| a <<< (16 - n)

/-- SHL: zeros enter at the bottom (R253). -/
def shlValue (a : Word) (n : Nat) : Word := a <<< n

end Sys2Proof.Machine
end

