-- ==== Sys2Proof/Machine/Flags.lean ====
section
/-! DEFINITION. Every flag effect (spec/10_state.md R27, R28): the defined ones, and the draws. A flag an instruction
writes is written both ways (D14). -/

namespace Sys2Proof.Machine

/-- Z, C and S each become `draw()` (R28, U5). -/
def State.drawFlags (s : State) : State := { s with rs := drawnFlags s.draws, draws := s.draws + 3 }

/-- C becomes the bit given, Z and S become `draw()` (SCL and SCR, R28). -/
def State.carryDrawZS (s : State) (c : Bool) : State :=
  { s with rs := ⟨Config.drawFlag s.draws, c, Config.drawFlag (s.draws + 1)⟩, draws := s.draws + 2 }

/-- CMP: Z and S from the signed comparison of AX with BX, C unchanged (R28, R137). -/
def State.compareSigned (s : State) : State :=
  { s with rs := { s.rs with z := s.ax == s.bx, s := s.ax.slt s.bx } }

/-- CMU: Z and S from the unsigned comparison of AX with BX, C unchanged (R28, R139). -/
def State.compareUnsigned (s : State) : State :=
  { s with rs := { s.rs with z := s.ax == s.bx, s := s.ax.ult s.bx } }

/-- IRF: Z is 1 when a masked interrupt flag is raised, C and S unchanged (R28, R240). -/
def State.testInterruptFlags (s : State) (k : Byte) : State :=
  { s with rs := { s.rs with z := s.rf &&& k != 0#8 } }

/-- CLI: each flag cleared where its mask bit is 1, unchanged otherwise (R28, R265). -/
def State.clearFlags (s : State) (z c v : Bool) : State :=
  { s with rs := ⟨s.rs.z && !z, s.rs.c && !c, s.rs.s && !v⟩ }

/-! ### Results with their flags: the draw-class instructions -/

/-- Write a result to `m`, draw all three flags, advance (R181, R205, R250, R290, R291). -/
def State.writeDraw (s : State) (m : Reg) (v : Word) (length : Nat) : Result :=
  .next ((s.set m v).drawFlags.advance length)

/-- DIV and MOD: the part of `DivMod` picked, or the stop on a zero divisor (R185, R186, U2). -/
def State.divide (s : State) (m : Reg) (o : A2Operand) (pick : Word × Word → Word) : Result :=
  if s.operand o = 0#16 then .fault .divideByZero
  else s.writeDraw m (pick (divMod (s.get m) (s.operand o))) 2

/-- ROL, ROR, SHL and SHR: the destination keeps its value for amount 0, takes `value` for 1 to 15, and amounts from 16
stop (R230); the flags are drawn whatever the amount is (R250). -/
def State.shift (s : State) (m : Reg) (o : A2Operand) (value : Word → Nat → Word) : Result :=
  if 16 ≤ s.amount o then .fault (.shiftAmount (s.amount o))
  else if s.amount o = 0 then .next (s.drawFlags.advance 2)
  else s.writeDraw m (value (s.get m) (s.amount o)) 2

/-- SCL and SCR: as `State.shift`, but C becomes the last bit shifted out, and is drawn for amount 0, where none is
(R231, R232, U17). -/
def State.shiftCarry (s : State) (m : Reg) (o : A2Operand) (value : Word → Nat → Word) (carry : Word → Nat → Bool) :
    Result :=
  if 16 ≤ s.amount o then .fault (.shiftAmount (s.amount o))
  else if s.amount o = 0 then .next (s.drawFlags.advance 2)
  else .next (((s.set m (value (s.get m) (s.amount o))).carryDrawZS (carry (s.get m) (s.amount o))).advance 2)

end Sys2Proof.Machine
end

