-- ==== Sys2Proof/Machine/Arithmetic.lean ====
section
/-! DEFINITION. Arithmetic (spec/42_arithmetic.md R180 to R186): ADD SUB MUL DIV MOD. -/

namespace Sys2Proof.Machine

/-- ADD (R182). -/
def execAdd (m : Reg) (o : A2Operand) (s : State) : Result := s.writeDraw m (s.get m + s.operand o) 2

/-- SUB (R183): destination minus second operand. -/
def execSub (m : Reg) (o : A2Operand) (s : State) : Result := s.writeDraw m (s.get m - s.operand o) 2

/-- MUL (R184): the low 16 bits of the product. -/
def execMul (m : Reg) (o : A2Operand) (s : State) : Result := s.writeDraw m (s.get m * s.operand o) 2

/-- DIV (R185): the quotient of `DivMod`. -/
def execDiv (m : Reg) (o : A2Operand) (s : State) : Result := s.divide m o Prod.fst

/-- MOD (R186): the remainder of `DivMod`. -/
def execMod (m : Reg) (o : A2Operand) (s : State) : Result := s.divide m o Prod.snd

end Sys2Proof.Machine
end

