-- ==== Sys2Proof/Machine/Bitwise.lean ====
section
/-! DEFINITION. Bitwise (spec/43_bitwise.md R200 to R205): NEG NOT AND IOR XOR. -/

namespace Sys2Proof.Machine

/-- NEG (R200). -/
def execNeg (r : Reg) (s : State) : Result := s.writeDraw r (0#16 - s.get r) 1

/-- NOT (R201). -/
def execNot (r : Reg) (s : State) : Result := s.writeDraw r (s.get r ^^^ 0xFFFF#16) 1

/-- AND (R202). -/
def execAnd (m l : Reg) (s : State) : Result := s.writeDraw m (s.get m &&& s.get l) 1

/-- IOR (R203). -/
def execIor (m l : Reg) (s : State) : Result := s.writeDraw m (s.get m ||| s.get l) 1

/-- XOR (R204). -/
def execXor (m l : Reg) (s : State) : Result := s.writeDraw m (s.get m ^^^ s.get l) 1

end Sys2Proof.Machine
end

