-- ==== Sys2Proof/Machine/Control.lean ====
section
/-! DEFINITION. Control and compare (spec/40_control.md R130 to R139): NOP INT ENI DEI RST HLT SWP CMP RET CMU. -/

namespace Sys2Proof.Machine

/-- NOP (R130). -/
def execNop (s : State) : Result := .next (s.advance 1)

/-- INT (R131): the interrupt entry with the address of the byte after INT, or the stop U6. RF is not touched. -/
def execInt (s : State) : Result :=
  if s.ie && !s.inh then .next (s.interruptEntry (s.pc + 1#16)) else .fault .intNotAccepted

/-- ENI (R132): IE set, RF cleared; INH is not lifted (R320). -/
def execEni (s : State) : Result := .next ({ s with ie := true, rf := 0#8 }.advance 1)

/-- DEI (R133): IE cleared, RF kept. -/
def execDei (s : State) : Result := .next ({ s with ie := false }.advance 1)

/-- RST (R134): `Reset()` with fresh draws, memory kept (R351). -/
def execRst (s : State) : Result := .next s.resetDrawn

/-- HLT (R135): RF cleared, pc advanced, then sleep; where no interrupt could wake it, the machine is left stuck (U8,
log 12). -/
def execHlt (s : State) : Result :=
  .next ({ s with
    rf := 0#8
    sleep := s.sleep || (s.ie && !s.inh)
    stuck := s.stuck || !(s.ie && !s.inh) }.advance 1)

/-- SWP (R136): the event `SwapBuffers`, no change of architectural state. -/
def execSwp (s : State) : Result := .next ((s.emit .swapBuffers).advance 1)

/-- CMP (R137). -/
def execCmp (s : State) : Result := .next (s.compareSigned.advance 1)

/-- RET (R138): everything back from IS, stale or not (U12, log 19), or the stop U7 where IS was never filled. -/
def execRet (s : State) : Result := if s.is.valid then .next s.interruptReturn else .fault .retBeforeEntry

/-- CMU (R139). -/
def execCmu (s : State) : Result := .next (s.compareUnsigned.advance 1)

end Sys2Proof.Machine
end

