-- ==== Sys2Proof/Machine/Indexed.lean ====
section
/-! DEFINITION. Indexed memory, immediate move, increment and decrement (spec/49_indexed_immediate_inc.md R285 to R291): LDI STI
LRI SRI MVI INC DEC. -/

namespace Sys2Proof.Machine

/-- LDI (R285): base `l`, destination `m`. -/
def execLdi (m l : Reg) (v : BitVec 4) (s : State) : Result := s.loadHigh m (s.indexed l v) 2

/-- STI (R286): base `m`, data `l`. -/
def execSti (m l : Reg) (v : BitVec 4) (s : State) : Result := s.storeHigh l (s.indexed m v) 2

/-- LRI (R287): address registers `d` and `l`, destination `m`. -/
def execLri (m d l : Reg) (v : BitVec 2) (s : State) : Result := s.loadHigh m (s.indexed2 d l v) 2

/-- SRI (R288): address registers `d` and `m`, data `l`. -/
def execSri (m d l : Reg) (v : BitVec 2) (s : State) : Result := s.storeHigh l (s.indexed2 d m v) 2

/-- MVI (R289): all 16 bits. -/
def execMvi (r : Reg) (k : Word) (s : State) : Result := .next ((s.set r k).advance 3)

/-- INC (R290): flags drawn (D35). -/
def execInc (r : Reg) (s : State) : Result := s.writeDraw r (s.get r + 1#16) 1

/-- DEC (R291): flags drawn (D35). -/
def execDec (r : Reg) (s : State) : Result := s.writeDraw r (s.get r - 1#16) 1

end Sys2Proof.Machine
end

