-- ==== Sys2Proof/Machine/InterruptFlag.lean ====
section
/-! DEFINITION. Interrupt-flag test and load from an absolute address (spec/46_irf_laa.md R240, R241): IRF LAA. -/

namespace Sys2Proof.Machine

/-- IRF (R240): Z is 1 when the masked RF is not zero. -/
def execIrf (k : Byte) (s : State) : Result := .next ((s.testInterruptFlags k).advance 2)

/-- LAA (R241). -/
def execLaa (r : Reg) (a : Word) (s : State) : Result := s.loadHigh r a 3

end Sys2Proof.Machine
end

