-- ==== Sys2Proof/Machine/LocalBranch.lean ====
section
/-! DEFINITION. Flag clearing and local branches (spec/48_local_branch.md R265 to R273): CLI JMP JIZ JNZ JLT JGE JOF JNF. -/

namespace Sys2Proof.Machine

/-- CLI (R265): mask bits in the order ZCS. -/
def execCli (z c fs : Bool) (s : State) : Result := .next ((s.clearFlags z c fs).advance 2)

/-- JMP (R267). -/
def execJmp (d : Byte) (s : State) : Result := .next (s.jump (s.branchTarget d))

/-- JIZ (R268). -/
def execJiz (d : Byte) (s : State) : Result := .next (s.jumpIf s.rs.z (s.branchTarget d) 2)

/-- JNZ (R269). -/
def execJnz (d : Byte) (s : State) : Result := .next (s.jumpIf (!s.rs.z) (s.branchTarget d) 2)

/-- JLT (R270). -/
def execJlt (d : Byte) (s : State) : Result := .next (s.jumpIf s.rs.s (s.branchTarget d) 2)

/-- JGE (R271). -/
def execJge (d : Byte) (s : State) : Result := .next (s.jumpIf (!s.rs.s) (s.branchTarget d) 2)

/-- JOF (R272). -/
def execJof (d : Byte) (s : State) : Result := .next (s.jumpIf s.rs.c (s.branchTarget d) 2)

/-- JNF (R273). -/
def execJnf (d : Byte) (s : State) : Result := .next (s.jumpIf (!s.rs.c) (s.branchTarget d) 2)

end Sys2Proof.Machine
end

