-- ==== Sys2Proof/Machine/Reserved.lean ====
section
/-! DEFINITION. The reserved and unassigned first bytes (spec/30_encoding.md R96, R97): executing one is `unspecified(U1)`, a fault. -/

namespace Sys2Proof.Machine

/-- The stop of a reserved or unassigned first byte (R96, R97, U1). -/
def reservedStop (b : Byte) : Result := .fault (.reservedOpcode b)

/-- First byte `07` (R96, U1). -/
def execReserved07 (_ : State) : Result := reservedStop 0x07#8

/-- First byte `0B` (R96, U1). -/
def execReserved0B (_ : State) : Result := reservedStop 0x0B#8

/-- First bytes `0C` to `0F` (R96, U1). -/
def execReserved0C (low : BitVec 2) (_ : State) : Result := reservedStop (0x0C#8 + low.setWidth 8)

/-- First bytes `18` to `1B` (R96, U1). -/
def execReserved18 (low : BitVec 2) (_ : State) : Result := reservedStop (0x18#8 + low.setWidth 8)

/-- First bytes `1C` to `1D` (R96, U1). -/
def execReserved1C (low : BitVec 1) (_ : State) : Result := reservedStop (0x1C#8 + low.setWidth 8)

/-- First byte `1E` (R96, U1). -/
def execReserved1E (_ : State) : Result := reservedStop 0x1E#8

/-- First bytes `20` to `23` (R97, U1). -/
def execUnassigned20 (low : BitVec 2) (_ : State) : Result := reservedStop (0x20#8 + low.setWidth 8)

/-- First bytes `40` to `4F` (R96, U1). -/
def execReserved40 (low : BitVec 4) (_ : State) : Result := reservedStop (0x40#8 + low.setWidth 8)

/-- First byte `85` (R96, U1). -/
def execReserved85 (_ : State) : Result := reservedStop 0x85#8

/-- First bytes `86` to `87` (R96, U1). -/
def execReserved86 (low : BitVec 1) (_ : State) : Result := reservedStop (0x86#8 + low.setWidth 8)

/-- First byte `D1` (R97, U1). -/
def execUnassignedD1 (_ : State) : Result := reservedStop 0xD1#8

/-- First bytes `D2` to `D3` (R97, U1). -/
def execUnassignedD2 (low : BitVec 1) (_ : State) : Result := reservedStop (0xD2#8 + low.setWidth 8)

/-- First byte `DE` (R96, U1). -/
def execReservedDE (_ : State) : Result := reservedStop 0xDE#8

end Sys2Proof.Machine
end

