-- ==== Sys2Proof/Machine/Shift.lean ====
section
/-! DEFINITION. Shifts and rotates (spec/45_shift_with_carry.md R230 to R232, spec/47_shift_rotate.md R250 to R254): SCL SCR ROL
ROR SHL SHR. -/

namespace Sys2Proof.Machine

/-- SCL (R231). -/
def execScl (m : Reg) (o : A2Operand) (s : State) : Result :=
  s.shiftCarry m o (fun a n => sclValue a n s.rs.c) sclCarry

/-- SCR (R232). -/
def execScr (m : Reg) (o : A2Operand) (s : State) : Result :=
  s.shiftCarry m o (fun a n => fillRight a n s.rs.c) scrCarry

/-- ROL (R251). -/
def execRol (m : Reg) (o : A2Operand) (s : State) : Result := s.shift m o rolValue

/-- ROR (R252). -/
def execRor (m : Reg) (o : A2Operand) (s : State) : Result := s.shift m o rorValue

/-- SHL (R253). -/
def execShl (m : Reg) (o : A2Operand) (s : State) : Result := s.shift m o shlValue

/-- SHR (R254): the fill is the flag S, not bit 15 of the operand. -/
def execShr (m : Reg) (o : A2Operand) (s : State) : Result := s.shift m o fun a n => fillRight a n s.rs.s

end Sys2Proof.Machine
end

