-- ==== Sys2Proof/Machine/StackJumpMove.lean ====
section
/-! DEFINITION. Stack, jumps, move, load and store (spec/41_stack_jump_move.md R150 to R163): PUS POP LJP JMR JZR JNR JLR JGR JOR
JUR MOV LOD STO. -/

namespace Sys2Proof.Machine

/-- PUS (R150): the register is read before SP moves. -/
def execPus (r : Reg) (s : State) : Result := .next ((s.push16 (s.get r)).advance 1)

/-- POP (R151): the register is written after SP has moved, so `POP SP` leaves the popped value. -/
def execPop (r : Reg) (s : State) : Result := s.pop16 fun v t => .next ((t.set r v).advance 1)

/-- LJP (R152). -/
def execLjp (a : Word) (s : State) : Result := .next (s.jump a)

/-- JMR (R154): the register holds the absolute target (R153). -/
def execJmr (r : Reg) (s : State) : Result := .next (s.jump (s.get r))

/-- JZR (R155). -/
def execJzr (r : Reg) (s : State) : Result := .next (s.jumpIf s.rs.z (s.get r) 1)

/-- JNR (R156). -/
def execJnr (r : Reg) (s : State) : Result := .next (s.jumpIf (!s.rs.z) (s.get r) 1)

/-- JLR (R157). -/
def execJlr (r : Reg) (s : State) : Result := .next (s.jumpIf s.rs.s (s.get r) 1)

/-- JGR (R158). -/
def execJgr (r : Reg) (s : State) : Result := .next (s.jumpIf (!s.rs.s) (s.get r) 1)

/-- JOR (R159). -/
def execJor (r : Reg) (s : State) : Result := .next (s.jumpIf s.rs.c (s.get r) 1)

/-- JUR (R160). -/
def execJur (r : Reg) (s : State) : Result := .next (s.jumpIf (!s.rs.c) (s.get r) 1)

/-- MOV (R161): `m` is the destination. -/
def execMov (m l : Reg) (s : State) : Result := .next ((s.set m (s.get l)).advance 1)

/-- LOD (R162): `l` holds the address, read before `m` is written. -/
def execLod (m l : Reg) (s : State) : Result := s.loadHigh m (s.get l) 1

/-- STO (R163): `m` holds the address, `l` the data. -/
def execSto (m l : Reg) (s : State) : Result := s.storeHigh l (s.get m) 1

end Sys2Proof.Machine
end

