-- ==== Sys2Proof/Machine/Subroutine.lean ====
section
/-! DEFINITION. Subroutines (spec/44_subroutine.md R215 to R219): RCL CAL RCR CAR. -/

namespace Sys2Proof.Machine

/-- RCL (R215): discard `v` bytes, then pop the return address into pc. -/
def execRcl (v : BitVec 4) (s : State) : Result :=
  { s with sp := s.sp + zext4 v }.pop16 fun a t => .next (t.jump a)

/-- CAL (R216). -/
def execCal (a : Word) (s : State) : Result := .next ((s.push16 s.returnAddress).jump a)

/-- RCR (R217): the context at `x[r]` gives pc and SP; nothing is popped. -/
def execRcr (r : Reg) (s : State) : Result :=
  s.withWord (s.get r) fun p => s.withWord (s.get r + 2#16) fun sp => .next ({ s with sp := sp }.jump p)

/-- CAR (R218): return address and SP stored at `x[r]`, then the jump. -/
def execCar (r : Reg) (a : Word) (s : State) : Result :=
  .next (((s.writeWord (s.get r) s.returnAddress).writeWord (s.get r + 2#16) s.sp).jump a)

end Sys2Proof.Machine
end

