-- ==== Sys2Proof/Machine/Dispatch.lean ====
section
/-! DEFINITION. The dispatch of every instruction to its meaning: one arm per constructor of `Instr`, in the order of
spec/opcode_table.json. -/

namespace Sys2Proof.Machine

def exec (i : Instr) (s : State) : Host.Outcome State Fault Refusal :=
  match i with
  | .nop => Sys2Proof.Machine.execNop s
  | .int => Sys2Proof.Machine.execInt s
  | .eni => Sys2Proof.Machine.execEni s
  | .dei => Sys2Proof.Machine.execDei s
  | .rst => Sys2Proof.Machine.execRst s
  | .hlt => Sys2Proof.Machine.execHlt s
  | .swp => Sys2Proof.Machine.execSwp s
  | .reserved07 => Sys2Proof.Machine.execReserved07 s
  | .cmp => Sys2Proof.Machine.execCmp s
  | .ret => Sys2Proof.Machine.execRet s
  | .cmu => Sys2Proof.Machine.execCmu s
  | .reserved0B => Sys2Proof.Machine.execReserved0B s
  | .reserved0C low => Sys2Proof.Machine.execReserved0C low s
  | .pus r => Sys2Proof.Machine.execPus r s
  | .pop r => Sys2Proof.Machine.execPop r s
  | .reserved18 low => Sys2Proof.Machine.execReserved18 low s
  | .reserved1C low => Sys2Proof.Machine.execReserved1C low s
  | .reserved1E => Sys2Proof.Machine.execReserved1E s
  | .ljp a => Sys2Proof.Machine.execLjp a s
  | .unassigned20 low => Sys2Proof.Machine.execUnassigned20 low s
  | .jmr r => Sys2Proof.Machine.execJmr r s
  | .jzr r => Sys2Proof.Machine.execJzr r s
  | .jnr r => Sys2Proof.Machine.execJnr r s
  | .jlr r => Sys2Proof.Machine.execJlr r s
  | .jgr r => Sys2Proof.Machine.execJgr r s
  | .jor r => Sys2Proof.Machine.execJor r s
  | .jur r => Sys2Proof.Machine.execJur r s
  | .reserved40 low => Sys2Proof.Machine.execReserved40 low s
  | .mov m l => Sys2Proof.Machine.execMov m l s
  | .lod m l => Sys2Proof.Machine.execLod m l s
  | .sto m l => Sys2Proof.Machine.execSto m l s
  | .add m o => Sys2Proof.Machine.execAdd m o s
  | .sub m o => Sys2Proof.Machine.execSub m o s
  | .mul m o => Sys2Proof.Machine.execMul m o s
  | .div m o => Sys2Proof.Machine.execDiv m o s
  | .mod m o => Sys2Proof.Machine.execMod m o s
  | .reserved85 => Sys2Proof.Machine.execReserved85 s
  | .reserved86 low => Sys2Proof.Machine.execReserved86 low s
  | .neg r => Sys2Proof.Machine.execNeg r s
  | .not r => Sys2Proof.Machine.execNot r s
  | .and m l => Sys2Proof.Machine.execAnd m l s
  | .ior m l => Sys2Proof.Machine.execIor m l s
  | .xor m l => Sys2Proof.Machine.execXor m l s
  | .rcl v => Sys2Proof.Machine.execRcl v s
  | .cal a => Sys2Proof.Machine.execCal a s
  | .unassignedD1 => Sys2Proof.Machine.execUnassignedD1 s
  | .unassignedD2 low => Sys2Proof.Machine.execUnassignedD2 low s
  | .rcr r => Sys2Proof.Machine.execRcr r s
  | .car r a => Sys2Proof.Machine.execCar r a s
  | .scl m o => Sys2Proof.Machine.execScl m o s
  | .scr m o => Sys2Proof.Machine.execScr m o s
  | .reservedDE => Sys2Proof.Machine.execReservedDE s
  | .irf k => Sys2Proof.Machine.execIrf k s
  | .laa r a => Sys2Proof.Machine.execLaa r a s
  | .rol m o => Sys2Proof.Machine.execRol m o s
  | .ror m o => Sys2Proof.Machine.execRor m o s
  | .shl m o => Sys2Proof.Machine.execShl m o s
  | .shr m o => Sys2Proof.Machine.execShr m o s
  | .cli z c fs => Sys2Proof.Machine.execCli z c fs s
  | .jmp d => Sys2Proof.Machine.execJmp d s
  | .jiz d => Sys2Proof.Machine.execJiz d s
  | .jnz d => Sys2Proof.Machine.execJnz d s
  | .jlt d => Sys2Proof.Machine.execJlt d s
  | .jge d => Sys2Proof.Machine.execJge d s
  | .jof d => Sys2Proof.Machine.execJof d s
  | .jnf d => Sys2Proof.Machine.execJnf d s
  | .ldi m l v => Sys2Proof.Machine.execLdi m l v s
  | .sti m l v => Sys2Proof.Machine.execSti m l v s
  | .lri m d l v => Sys2Proof.Machine.execLri m d l v s
  | .sri m d l v => Sys2Proof.Machine.execSri m d l v s
  | .mvi r k => Sys2Proof.Machine.execMvi r k s
  | .inc r => Sys2Proof.Machine.execInc r s
  | .dec r => Sys2Proof.Machine.execDec r s

end Sys2Proof.Machine
end

