-- ==== Sys2Proof/Machine/Fetch.lean ====
section
/-! DEFINITION. Instruction fetch (spec/20_memory.md R77), and placing an instruction where it is fetched. -/

namespace Sys2Proof.Machine

/-- The `n` bytes from address `a`, addresses modulo 2^16, or the fault of the first byte that holds no value. -/
def State.bytesFrom (s : State) : Nat → Word → Except Fault (List Byte)
  | 0, _ => .ok []
  | n + 1, a =>
    match s.readByte a with
    | none => .error (.unwrittenByte a)
    | some b =>
      match State.bytesFrom s n (a + 1#16) with
      | .error f => .error f
      | .ok bs => .ok (b :: bs)

/-- Fetch at `pc`: the first byte, which gives the length, then the rest; no side effect (R77, R90). -/
def State.fetch (s : State) : Except Fault (List Byte) :=
  match s.readByte s.pc with
  | none => .error (.unwrittenByte s.pc)
  | some b0 => s.bytesFrom (fetchLength b0) s.pc

/-- Store bytes at consecutive addresses, wrapping modulo 2^16. -/
def State.writeBytes (s : State) : Word → List Byte → State
  | _, [] => s
  | a, b :: bs => State.writeBytes (s.writeByte a b) (a + 1#16) bs

end Sys2Proof.Machine
end

