-- ==== Sys2Proof/Machine/Boundary.lean ====
section
/-! DEFINITION. One step of the whole machine, in the order of spec/60_exceptions.md R328. -/

namespace Sys2Proof.Machine

/-- Fetch at `pc`, decode, execute one instruction (R77, R104, R328). -/
def State.runInstruction (s : State) : Result :=
  match s.fetch with
  | .error f => .fault f
  | .ok bytes =>
    match decode bytes with
    | .error _ => .refused .undecodable
    | .ok (i, _) => exec i s

/-- One step: events arrive, then an interrupt is entered if one is due (also the wake-up of R327), else the machine
stays asleep, else one instruction runs (R328). A machine that HLT left stuck takes no step (U8, log 12). -/
def State.boundary (s : State) : Result :=
  if s.stuck then .fault .stuckAfterHlt
  else
    let s := s.arrive
    if s.entryDue then .next (s.interruptEntry s.pc)
    else if s.sleep then .next s
    else s.runInstruction

end Sys2Proof.Machine
end

