-- ==== Sys2Proof/Machine/Step.lean ====
section
/-! DEFINITION. The step of the machine, and the placing of an instruction where the next step fetches it. -/

namespace Sys2Proof.Machine

/-- One step (spec/60_exceptions.md R328). -/
def step (s : State) : Host.Outcome State Fault Refusal := s.boundary

/-- The state with an instruction, given as a number (`tableBytes`), stored at `pc`, where the next step fetches. It
stands for the load of a program from outside (log 7) and changes memory alone (log 22). -/
def State.withFetchWord (s : State) (nbits w : Nat) : State := s.writeBytes s.pc (tableBytes nbits w)

end Sys2Proof.Machine
end

