-- ==== Sys2Proof/Machine/Assembly.lean ====
section
/-! DEFINITION. The assembler syntax as far as the source shows it (spec/30_encoding.md R100 to R103): the mnemonic and the
operands of every instruction in the order the assembler writes them, and the instruction a statement stands for. No
step depends on this file. -/

namespace Sys2Proof

/-- An operand as the assembler writes it (R100). A label and `@name` stand for an address. -/
inductive AsmOperand where
  | reg (r : Reg)
  | num (n : Nat)
  | label (a : Word)
  deriving DecidableEq, Repr

/-- A statement: a mnemonic followed by its operands (R100). -/
structure AsmStatement where
  mnemonic : String
  operands : List AsmOperand
  deriving DecidableEq, Repr

/-! ### Writing (R101, R102) -/

/-- The second operand of an A2 instruction: a register, or a number from 1 to 15. -/
def A2Operand.asm : A2Operand → AsmOperand
  | .reg l => .reg l
  | .imm v => .num v.toNat

/-- The statement of an instruction: register operands from the most to the least significant selector field, the
immediate or address last (R101). The reserved and unassigned rows have none. -/
def Instr.statement : Instr → Option AsmStatement
  | .nop => some ⟨"NOP", []⟩
  | .int => some ⟨"INT", []⟩
  | .eni => some ⟨"ENI", []⟩
  | .dei => some ⟨"DEI", []⟩
  | .rst => some ⟨"RST", []⟩
  | .hlt => some ⟨"HLT", []⟩
  | .swp => some ⟨"SWP", []⟩
  | .reserved07 => none
  | .cmp => some ⟨"CMP", []⟩
  | .ret => some ⟨"RET", []⟩
  | .cmu => some ⟨"CMU", []⟩
  | .reserved0B => none
  | .reserved0C _ => none
  | .pus r => some ⟨"PUS", [.reg r]⟩
  | .pop r => some ⟨"POP", [.reg r]⟩
  | .reserved18 _ => none
  | .reserved1C _ => none
  | .reserved1E => none
  | .ljp a => some ⟨"LJP", [.num a.toNat]⟩
  | .unassigned20 _ => none
  | .jmr r => some ⟨"JMR", [.reg r]⟩
  | .jzr r => some ⟨"JZR", [.reg r]⟩
  | .jnr r => some ⟨"JNR", [.reg r]⟩
  | .jlr r => some ⟨"JLR", [.reg r]⟩
  | .jgr r => some ⟨"JGR", [.reg r]⟩
  | .jor r => some ⟨"JOR", [.reg r]⟩
  | .jur r => some ⟨"JUR", [.reg r]⟩
  | .reserved40 _ => none
  | .mov m l => some ⟨"MOV", [.reg m, .reg l]⟩
  | .lod m l => some ⟨"LOD", [.reg m, .reg l]⟩
  | .sto m l => some ⟨"STO", [.reg m, .reg l]⟩
  | .add m o => some ⟨"ADD", [.reg m, o.asm]⟩
  | .sub m o => some ⟨"SUB", [.reg m, o.asm]⟩
  | .mul m o => some ⟨"MUL", [.reg m, o.asm]⟩
  | .div m o => some ⟨"DIV", [.reg m, o.asm]⟩
  | .mod m o => some ⟨"MOD", [.reg m, o.asm]⟩
  | .reserved85 => none
  | .reserved86 _ => none
  | .neg r => some ⟨"NEG", [.reg r]⟩
  | .not r => some ⟨"NOT", [.reg r]⟩
  | .and m l => some ⟨"AND", [.reg m, .reg l]⟩
  | .ior m l => some ⟨"IOR", [.reg m, .reg l]⟩
  | .xor m l => some ⟨"XOR", [.reg m, .reg l]⟩
  | .rcl v => some ⟨"RCL", [.num v.toNat]⟩
  | .cal a => some ⟨"CAL", [.num a.toNat]⟩
  | .unassignedD1 => none
  | .unassignedD2 _ => none
  | .rcr r => some ⟨"RCR", [.reg r]⟩
  | .car r a => some ⟨"CAR", [.reg r, .num a.toNat]⟩
  | .scl m o => some ⟨"SCL", [.reg m, o.asm]⟩
  | .scr m o => some ⟨"SCR", [.reg m, o.asm]⟩
  | .reservedDE => none
  | .irf k => some ⟨"IRF", [.num k.toNat]⟩
  | .laa r a => some ⟨"LAA", [.reg r, .num a.toNat]⟩
  | .rol m o => some ⟨"ROL", [.reg m, o.asm]⟩
  | .ror m o => some ⟨"ROR", [.reg m, o.asm]⟩
  | .shl m o => some ⟨"SHL", [.reg m, o.asm]⟩
  | .shr m o => some ⟨"SHR", [.reg m, o.asm]⟩
  | .cli z c s => some ⟨"CLI", [.num (byteM2 z c s).toNat]⟩
  | .jmp d => some ⟨"JMP", [.num d.toNat]⟩
  | .jiz d => some ⟨"JIZ", [.num d.toNat]⟩
  | .jnz d => some ⟨"JNZ", [.num d.toNat]⟩
  | .jlt d => some ⟨"JLT", [.num d.toNat]⟩
  | .jge d => some ⟨"JGE", [.num d.toNat]⟩
  | .jof d => some ⟨"JOF", [.num d.toNat]⟩
  | .jnf d => some ⟨"JNF", [.num d.toNat]⟩
  | .ldi m l v => some ⟨"LDI", [.reg m, .reg l, .num v.toNat]⟩
  | .sti m l v => some ⟨"STI", [.reg m, .reg l, .num v.toNat]⟩
  | .lri m d l v => some ⟨"LRI", [.reg m, .reg d, .reg l, .num v.toNat]⟩
  | .sri m d l v => some ⟨"SRI", [.reg m, .reg d, .reg l, .num v.toNat]⟩
  | .mvi r k => some ⟨"MVI", [.reg r, .num k.toNat]⟩
  | .inc r => some ⟨"INC", [.reg r]⟩
  | .dec r => some ⟨"DEC", [.reg r]⟩

/-! ### Reading -/

/-- A number that fits `w` bits. -/
def asmBits (w n : Nat) : Option (BitVec w) := if n < 2 ^ w then some (BitVec.ofNat w n) else none

/-- An imm/16 operand: a number, or the address a label or datum stands for (R100). -/
def AsmOperand.address : AsmOperand → Option Word
  | .num n => asmBits 16 n
  | .label a => some a
  | .reg _ => none

/-- The operand of a local branch that stands at `here`: the displacement, or the label it is taken from (R100, R266). -/
def AsmOperand.displacement (here : Word) : AsmOperand → Option Byte
  | .num n => asmBits 8 n
  | .label a => if sext8 ((a - here).setWidth 8) = a - here then some ((a - here).setWidth 8) else none
  | .reg _ => none

/-- The second operand of an A2 statement: reg, or imm/4 from 1 to 15 (R102). -/
def AsmOperand.a2 : AsmOperand → Option A2Operand
  | .reg l => some (.reg l)
  | .num n => if 1 ≤ n ∧ n ≤ 15 then some (.imm (BitVec.ofNat 4 n)) else none
  | .label _ => none

/-- The instructions that take no operand. -/
def asmNone : String → Option Instr
  | "NOP" => some .nop
  | "INT" => some .int
  | "ENI" => some .eni
  | "DEI" => some .dei
  | "RST" => some .rst
  | "HLT" => some .hlt
  | "SWP" => some .swp
  | "CMP" => some .cmp
  | "RET" => some .ret
  | "CMU" => some .cmu
  | _ => none

/-- The instructions that take one register. -/
def asmReg (r : Reg) : String → Option Instr
  | "PUS" => some (.pus r)
  | "POP" => some (.pop r)
  | "JMR" => some (.jmr r)
  | "JZR" => some (.jzr r)
  | "JNR" => some (.jnr r)
  | "JLR" => some (.jlr r)
  | "JGR" => some (.jgr r)
  | "JOR" => some (.jor r)
  | "JUR" => some (.jur r)
  | "NEG" => some (.neg r)
  | "NOT" => some (.not r)
  | "RCR" => some (.rcr r)
  | "INC" => some (.inc r)
  | "DEC" => some (.dec r)
  | _ => none

/-- The instructions that take one number or label; `here` is the address of the statement. -/
def asmImm (here : Word) (o : AsmOperand) (n : Option Nat) : String → Option Instr
  | "LJP" => o.address.map .ljp
  | "CAL" => o.address.map .cal
  | "RCL" => n.bind fun n => (asmBits 4 n).map .rcl
  | "IRF" => n.bind fun n => (asmBits 8 n).map .irf
  | "CLI" => n.bind fun n => (asmBits 8 n).map fun k => .cli (k.getLsbD 7) (k.getLsbD 6) (k.getLsbD 5)
  | "JMP" => (o.displacement here).map .jmp
  | "JIZ" => (o.displacement here).map .jiz
  | "JNZ" => (o.displacement here).map .jnz
  | "JLT" => (o.displacement here).map .jlt
  | "JGE" => (o.displacement here).map .jge
  | "JOF" => (o.displacement here).map .jof
  | "JNF" => (o.displacement here).map .jnf
  | _ => none

/-- The instructions that take two registers and nothing else. -/
def asmRegReg (m l : Reg) : String → Option Instr
  | "MOV" => some (.mov m l)
  | "LOD" => some (.lod m l)
  | "STO" => some (.sto m l)
  | "AND" => some (.and m l)
  | "IOR" => some (.ior m l)
  | "XOR" => some (.xor m l)
  | _ => none

/-- The instructions that take a register, and a register or number or address. -/
def asmRegOther (m : Reg) (o : AsmOperand) : String → Option Instr
  | "ADD" => o.a2.map (.add m)
  | "SUB" => o.a2.map (.sub m)
  | "MUL" => o.a2.map (.mul m)
  | "DIV" => o.a2.map (.div m)
  | "MOD" => o.a2.map (.mod m)
  | "SCL" => o.a2.map (.scl m)
  | "SCR" => o.a2.map (.scr m)
  | "ROL" => o.a2.map (.rol m)
  | "ROR" => o.a2.map (.ror m)
  | "SHL" => o.a2.map (.shl m)
  | "SHR" => o.a2.map (.shr m)
  | "CAR" => o.address.map (.car m)
  | "LAA" => o.address.map (.laa m)
  | "MVI" => o.address.map (.mvi m)
  | _ => none

/-- The instruction a statement at address `here` stands for (R101, R102). -/
def assemble (here : Word) (st : AsmStatement) : Option Instr :=
  match st.operands with
  | [] => asmNone st.mnemonic
  | [.reg r] => asmReg r st.mnemonic
  | [.num n] => asmImm here (.num n) (some n) st.mnemonic
  | [.label a] => asmImm here (.label a) none st.mnemonic
  | [.reg m, .reg l] => (asmRegReg m l st.mnemonic).or (asmRegOther m (.reg l) st.mnemonic)
  | [.reg m, o] => asmRegOther m o st.mnemonic
  | [.reg m, .reg l, .num n] =>
    match st.mnemonic with
    | "LDI" => (asmBits 4 n).map (.ldi m l)
    | "STI" => (asmBits 4 n).map (.sti m l)
    | _ => none
  | [.reg m, .reg d, .reg l, .num n] =>
    match st.mnemonic with
    | "LRI" => (asmBits 2 n).map (.lri m d l)
    | "SRI" => (asmBits 2 n).map (.sri m d l)
    | _ => none
  | _ => none

end Sys2Proof
end

