-- ==== Sys2Proof/Safety.lean ====
section
/-! DEFINITION. What counts as a safe run and the end of one, the invariant of the machine, and the few words the
statements are written in. -/

namespace Sys2Proof

/-- These bytes, whatever follows them, decode to this instruction and to nothing more (spec/30_encoding.md R104). -/
def Decodes (bytes : List Byte) (i : Instr) : Prop := ∀ rest, decode (bytes ++ rest) = .ok (i, rest)

/-- The two forms of format A2 under this first byte: with `v = 0` the register form, with any other `v` the immediate
form, whatever the low selector bits are (R94, R98). -/
def DecodesA2 (op : Byte) (f : Reg → A2Operand → Instr) : Prop :=
  ∀ (v : BitVec 4) (m l : Reg),
    Decodes [op, (v ++ m.code : BitVec 6) ++ l.code] (f m (if v = 0#4 then .reg l else .imm v))

namespace Machine

/-- The step goes on: neither a fault nor a refusal. A run is safe while every step of it goes on (R311). -/
def Result.goesOn : Result → Bool
  | .next _ => true
  | .fault _ => false
  | .refused _ => false

/-- These bytes stand in memory from address `a` on, addresses modulo 2^16 (R63). -/
def State.holds (s : State) : Word → List Byte → Prop
  | _, [] => True
  | a, b :: bs => s.readByte a = some b ∧ State.holds s (a + 1#16) bs

/-- The second operand of an A2 instruction as an exact number: the register's value, or the immediate (R94, R180). -/
def State.operandNat (s : State) : A2Operand → Nat
  | .reg l => (s.get l).toNat
  | .imm v => v.toNat

/-- The bytes an instruction stores, each with its address, computed in the state it starts from (R61, R65, R74, R218). -/
def State.stored (s : State) : Instr → List (Word × Byte)
  | .sto m l => [(s.get m, hiByte (s.get l))]
  | .sti m l v => [(s.indexed m v, hiByte (s.get l))]
  | .sri m d l v => [(s.indexed2 d m v, hiByte (s.get l))]
  | .pus r => [(s.sp, loByte (s.get r)), (s.sp - 1#16, hiByte (s.get r))]
  | .cal _ => [(s.sp, loByte s.returnAddress), (s.sp - 1#16, hiByte s.returnAddress)]
  | .car r _ =>
    [(s.get r, hiByte s.returnAddress), (s.get r + 1#16, loByte s.returnAddress), (s.get r + 2#16, hiByte s.sp),
      (s.get r + 3#16, loByte s.sp)]
  | _ => []

/-- Everything but the general registers, PC and memory is as it was. -/
def State.SameSystem (s t : State) : Prop :=
  t.rs = s.rs ∧ t.rf = s.rf ∧ t.ie = s.ie ∧ t.inh = s.inh ∧ t.sleep = s.sleep ∧ t.is = s.is ∧ t.env = s.env ∧
    t.output = s.output ∧ t.draws = s.draws ∧ t.stuck = s.stuck

/-- The general registers are as they were. -/
def State.SameRegs (s t : State) : Prop := ∀ r, t.get r = s.get r

/-- The next step runs the instruction at PC: the machine is not stuck, the events of this boundary make no interrupt
due, and it is awake (R328). -/
def State.Runs (s : State) : Prop := s.stuck = false ∧ s.arrive.entryDue = false ∧ s.sleep = false

/-- The invariant of the machine: memory has its canonical form; it sleeps only where an interrupt can wake it (R135,
R327); the routine runs only after an entry has filled IS (R317); it is stuck only as U8 leaves it, with RF cleared,
awake, and with no interrupt to be recognised. -/
def State.Inv (s : State) : Prop :=
  s.mem.wf = true ∧
  (s.sleep = true → s.ie = true ∧ s.inh = false) ∧
  (s.inh = true → s.is.valid = true) ∧
  (s.stuck = true → s.rf = 0#8 ∧ s.sleep = false ∧ (s.ie = true → s.inh = true))

/-- The end of a run (R357): not stuck (a stuck state is never final, R311), awake, `E9 00` (`JMP` to itself) at PC, and
no entry to come: IE is 0, or INH is 1, or the environment raises no further bit. -/
def State.EndOfRun (s : State) : Prop :=
  s.stuck = false ∧ s.sleep = false ∧ s.holds s.pc [0xE9#8, 0x00#8] ∧
    (s.ie = false ∨ s.inh = true ∨ ∀ e ∈ s.env, e = 0#8)

end Machine

end Sys2Proof
end

