-- ==== Sys2Proof/Certificates/Slice0/Obligations.lean ====
section
/-! DEFINITION. The statements for the provers. `f` and `n` under an existential stand for flags and a draw counter that
the spec leaves free (spec/10_state.md R28 `draw()`); a statement with them says that everything else is as written. -/

open Sys2Proof Sys2Proof.Machine

/-! ### Encoding (spec/30_encoding.md) -/

/-- Decoding the bytes the encoder writes for a well-formed instruction gives it back, whatever bytes follow
(R91 to R95, R104): no bit of an encoding is dropped. -/
def Obligations.DecodeInvertsEncode : Prop := ∀ i : Instr, i.wellFormed = true → Decodes (encode i) i

/-- The other direction: encoding a decoded instruction gives back the bytes it was read from, except where bits are
ignored (the immediate form of A2 and CLI, R98). -/
def Obligations.EncodeRestoresDecodedBytes : Prop :=
  ∀ (bs rest : List Byte) (i : Instr), decode bs = .ok (i, rest) →
    match i with
    | .add _ (.imm _) | .sub _ (.imm _) | .mul _ (.imm _) | .div _ (.imm _) | .mod _ (.imm _) | .scl _ (.imm _)
    | .scr _ (.imm _) | .rol _ (.imm _) | .ror _ (.imm _) | .shl _ (.imm _) | .shr _ (.imm _) | .cli _ _ _ => True
    | _ => encode i ++ rest = bs

/-- What the decoder answers is well formed: an A2 immediate is never zero (R94, R99). -/
def Obligations.DecodedInstructionsAreWellFormed : Prop :=
  ∀ (bs rest : List Byte) (i : Instr), decode bs = .ok (i, rest) → i.wellFormed = true

/-- The opcode map has 73 rows and every first byte selects exactly one of them (section 6, R95). -/
def Obligations.EveryFirstByteSelectsOneRow : Prop :=
  opcodeMap.length = 73 ∧ ∀ b : Byte, (opcodeMap.filter fun row => row.selects b).length = 1

/-- The length of every first byte as R90's table has it; the bytes not in the table have none. -/
def Obligations.FirstByteDecidesLength : Prop :=
  ∀ b : Byte, instrLength b =
    (let n := b.toNat
     if n ≤ 0x06 ∨ (0x08 ≤ n ∧ n ≤ 0x0A) ∨ (0x10 ≤ n ∧ n ≤ 0x17) ∨ (0x24 ≤ n ∧ n ≤ 0x3F) ∨ (0x50 ≤ n ∧ n ≤ 0x7F) ∨
        (0x88 ≤ n ∧ n ≤ 0xCF) ∨ (0xD4 ≤ n ∧ n ≤ 0xD7) ∨ 0xF8 ≤ n then some 1
     else if (0x80 ≤ n ∧ n ≤ 0x84) ∨ n = 0xDC ∨ n = 0xDD ∨ n = 0xDF ∨ (0xE4 ≤ n ∧ n ≤ 0xF3) then some 2
     else if n = 0x1F ∨ n = 0xD0 ∨ (0xD8 ≤ n ∧ n ≤ 0xDB) ∨ (0xE0 ≤ n ∧ n ≤ 0xE3) ∨ (0xF4 ≤ n ∧ n ≤ 0xF7) then some 3
     else none)

/-- Words written out in spec/95_test_vectors.md part 1 and 2.1 decode as it says, one or more of every family. For the
last two, a reserved and an unassigned byte, 2.1 knows no decoding and no length: that each decodes, alone, to the row of
the map that its byte selects is the model's choice (log 15). -/
def Obligations.SpecWordsDecode : Prop :=
  Decodes [0x00] .nop ∧ Decodes [0x13] (.pus .sp) ∧ Decodes [0x1F, 0x12, 0x34] (.ljp 0x1234) ∧
  Decodes [0x2E] (.jnr .cx) ∧ Decodes [0x5C] (.mov .sp .ax) ∧ Decodes [0x66] (.lod .bx .cx) ∧
  Decodes [0x78] (.sto .cx .ax) ∧ Decodes [0x80, 0x08] (.add .cx (.reg .ax)) ∧ Decodes [0x80, 0x58] (.add .cx (.imm 5)) ∧
  Decodes [0x80, 0x5B] (.add .cx (.imm 5)) ∧ Decodes [0x84, 0x70] (.mod .ax (.imm 7)) ∧ Decodes [0xAE] (.ior .sp .cx) ∧
  Decodes [0xCF] (.rcl 15) ∧ Decodes [0xD0, 0x03, 0x0B] (.cal 0x030B) ∧ Decodes [0xDB, 0x05, 0x00] (.car .sp 0x0500) ∧
  Decodes [0xDD, 0x44] (.scr .bx (.imm 4)) ∧ Decodes [0xDF, 0x80] (.irf 0x80) ∧ Decodes [0xE3, 0xFF, 0xFF] (.laa .sp 0xFFFF) ∧
  Decodes [0xE7, 0x20] (.shr .ax (.imm 2)) ∧ Decodes [0xE8, 0xFF] (.cli true true true) ∧ Decodes [0xEB, 0xFC] (.jnz 0xFC) ∧
  Decodes [0xF2, 0xCE] (.lri .ax .sp .cx 3) ∧ Decodes [0xF7, 0x80, 0x00] (.mvi .sp 0x8000) ∧ Decodes [0xFB] (.inc .sp) ∧
  Decodes [0x07] .reserved07 ∧ Decodes [0x23] (.unassigned20 3)

/-- The ignored bits (R98): two A2 words in immediate form that differ in bits 1:0 of byte 1 alone decode alike, and two
CLI words that differ in bits 4:0 alone; the encoding of such an instruction has zeros there. -/
def Obligations.IgnoredBitsAreIgnored : Prop :=
  (∀ (b0 b b' : Byte) (rest : List Byte),
    b0 ∈ [0x80#8, 0x81#8, 0x82#8, 0x83#8, 0x84#8, 0xDC#8, 0xDD#8, 0xE4#8, 0xE5#8, 0xE6#8, 0xE7#8] →
    16 ≤ b.toNat → b.toNat / 4 = b'.toNat / 4 → decode (b0 :: b :: rest) = decode (b0 :: b' :: rest)) ∧
  (∀ (b b' : Byte) (rest : List Byte), b.toNat / 32 = b'.toNat / 32 →
    decode (0xE8#8 :: b :: rest) = decode (0xE8#8 :: b' :: rest)) ∧
  (∀ (m : Reg) (v : BitVec 4) (i : Instr),
    i ∈ [Instr.add m (.imm v), .sub m (.imm v), .mul m (.imm v), .div m (.imm v), .mod m (.imm v), .scl m (.imm v),
      .scr m (.imm v), .rol m (.imm v), .ror m (.imm v), .shl m (.imm v), .shr m (.imm v)] →
    ∃ b0 b1, encode i = [b0, b1] ∧ b1.toNat % 4 = 0) ∧
  (∀ z c s : Bool, ∃ b0 b1, encode (.cli z c s) = [b0, b1] ∧ b1.toNat % 32 = 0)

/-- Assembling the statement of a well-formed instruction, at whatever address, gives the instruction back; the thirteen
reserved and unassigned rows alone have no statement (R101, R102). A label stands for its address in LJP, CAL, CAR, LAA
and MVI; in a local branch at `here` for the displacement that leads from `here` to it, and where no displacement does,
the statement is no instruction. That numbers are read and labels resolved before is the model's choice (log 25). -/
def Obligations.AssembleReadsStatement : Prop :=
  (∀ (i : Instr) (here : Word) (st : AsmStatement), i.wellFormed = true → i.statement = some st →
    assemble here st = some i) ∧
  (∀ i : Instr, i.statement = none ↔ ∀ s : State, ∃ b, exec i s = .fault (.reservedOpcode b)) ∧
  (∀ (here a : Word) (r : Reg),
    assemble here ⟨"LJP", [.label a]⟩ = some (.ljp a) ∧ assemble here ⟨"CAL", [.label a]⟩ = some (.cal a) ∧
    assemble here ⟨"CAR", [.reg r, .label a]⟩ = some (.car r a) ∧
    assemble here ⟨"LAA", [.reg r, .label a]⟩ = some (.laa r a) ∧
    assemble here ⟨"MVI", [.reg r, .label a]⟩ = some (.mvi r a)) ∧
  ∀ (here a : Word) (name : String) (f : Byte → Instr),
    (name, f) ∈ [("JMP", Instr.jmp), ("JIZ", .jiz), ("JNZ", .jnz), ("JLT", .jlt), ("JGE", .jge), ("JOF", .jof),
      ("JNF", .jnf)] →
    (∀ d : Byte, (a.toNat : Int) = ((here.toNat : Int) + d.toInt) % 65536 →
      assemble here ⟨name, [.label a]⟩ = some (f d)) ∧
    ((∀ d : Byte, (a.toNat : Int) ≠ ((here.toNat : Int) + d.toInt) % 65536) →
      assemble here ⟨name, [.label a]⟩ = none)

/-! ### Control and compare (spec/40_control.md) -/

/-- NOP advances and changes nothing else; SWP advances and emits `SwapBuffers` (R130, R136). -/
def Obligations.NopAndSwpOnlyAdvance : Prop :=
  Decodes [0x00] .nop ∧ Decodes [0x06] .swp ∧
  ∀ s : State,
    exec .nop s = .next { s with pc := s.pc + 1#16 } ∧
    exec .swp s = .next { s with pc := s.pc + 1#16, output := s.output ++ [.swapBuffers] }

/-- INT enters the routine with the address of the byte after it where IE = 1 and INH = 0, and stops (U6) elsewhere
(R131, R317). -/
def Obligations.IntEntersTheRoutine : Prop :=
  Decodes [0x01] .int ∧
  ∀ s : State,
    (s.ie = true ∧ s.inh = false →
      exec .int s = .next { s with
        is := { ax := s.ax, bx := s.bx, cx := s.cx, sp := s.sp, pc := s.pc + 1#16, rs := s.rs, valid := true }
        inh := true
        sleep := false
        pc := 0x0000#16 }) ∧
    (¬(s.ie = true ∧ s.inh = false) → exec .int s = .fault .intNotAccepted)

/-- ENI sets IE and clears RF; DEI clears IE and keeps RF (R132, R133). -/
def Obligations.EniAndDeiWriteInterruptEnable : Prop :=
  Decodes [0x02] .eni ∧ Decodes [0x03] .dei ∧
  ∀ s : State,
    exec .eni s = .next { s with ie := true, rf := 0x00#8, pc := s.pc + 1#16 } ∧
    exec .dei s = .next { s with ie := false, pc := s.pc + 1#16 }

/-- RST: pc, INH, SLEEP and IS.valid as the reset procedure fixes them, memory, environment and output kept, and every
value it leaves unspecified a draw not used before (R134, R351; that they are draws of one counter is log 11's). -/
def Obligations.RstResetsTheMachine : Prop :=
  Decodes [0x04] .rst ∧
  ∀ s : State, ∃ (u : ResetValues) (n : Nat), s.draws < n ∧
    exec .rst s = .next { s with
      pc := 0x0000#16
      inh := false
      sleep := false
      is := { ax := u.isAx, bx := u.isBx, cx := u.isCx, sp := u.isSp, pc := u.isPc, rs := u.isRs, valid := false }
      ax := u.ax
      bx := u.bx
      cx := u.cx
      sp := u.sp
      rs := u.rs
      rf := u.rf
      ie := u.ie
      draws := n }

/-- HLT clears RF, advances, and sleeps where IE = 1 and INH = 0; elsewhere the machine is stuck (U8): the very next
step stops (R135; the mark and the fault of that step are the model's, log 12). -/
def Obligations.HltSleepsOrSticks : Prop :=
  Decodes [0x05] .hlt ∧
  ∀ s : State, s.stuck = false → s.sleep = false →
    (s.ie = true ∧ s.inh = false →
      exec .hlt s = .next { s with rf := 0x00#8, pc := s.pc + 1#16, sleep := true }) ∧
    (¬(s.ie = true ∧ s.inh = false) →
      ∃ t, exec .hlt s = .next t ∧ t = { s with rf := 0x00#8, pc := s.pc + 1#16, stuck := true } ∧
        step t = .fault .stuckAfterHlt)

/-- CMP and CMU: Z is AX = BX, S is the true signed or unsigned less-than, C and everything else unchanged
(R137, R139). -/
def Obligations.ComparesSetZeroAndSign : Prop :=
  Decodes [0x08] .cmp ∧ Decodes [0x0A] .cmu ∧
  ∀ s : State,
    exec .cmp s = .next { s with
      rs := { z := decide (s.ax = s.bx), c := s.rs.c, s := decide (s.ax.toInt < s.bx.toInt) }
      pc := s.pc + 1#16 } ∧
    exec .cmu s = .next { s with
      rs := { z := decide (s.ax = s.bx), c := s.rs.c, s := decide (s.ax.toNat < s.bx.toNat) }
      pc := s.pc + 1#16 }

/-- RET restores AX, BX, CX, SP, PC and the flags from IS, clears RF and INH, and changes nothing else (IE and IS stay);
so also with INH = 0 and a stale IS (U12, log 19); where IS was never filled it stops (U7) (R138). -/
def Obligations.RetRestoresTheContext : Prop :=
  Decodes [0x09] .ret ∧
  ∀ s : State,
    (s.is.valid = true →
      exec .ret s = .next { s with
        ax := s.is.ax
        bx := s.is.bx
        cx := s.is.cx
        sp := s.is.sp
        rs := s.is.rs
        rf := 0x00#8
        inh := false
        pc := s.is.pc }) ∧
    (s.is.valid = false → exec .ret s = .fault .retBeforeEntry)

/-! ### Stack, jumps, move, load, store (spec/41_stack_jump_move.md) -/

/-- PUS stores the low byte at SP and the high byte at SP - 1, moves SP down by two, and changes nothing else
(R150, R74). -/
def Obligations.PusStoresTheRegister : Prop :=
  (∀ r : Reg, Decodes [0x10#8 + r.code.setWidth 8] (.pus r)) ∧
  ∀ (s : State) (r : Reg), ∃ t, exec (.pus r) s = .next t ∧
    (∃ hi lo, t.readByte (s.sp - 1#16) = some hi ∧ t.readByte s.sp = some lo ∧
      hi.toNat * 256 + lo.toNat = (s.get r).toNat) ∧
    t.sp = s.sp - 2#16 ∧ t.ax = s.ax ∧ t.bx = s.bx ∧ t.cx = s.cx ∧ t.pc = s.pc + 1#16 ∧ s.SameSystem t ∧
    ∀ a, a ≠ s.sp → a ≠ s.sp - 1#16 → t.readByte a = s.readByte a

/-- POP moves SP up by two and then writes the word found at SP + 1 (high) and SP + 2 (low), so that POP SP ends with
the popped value; nothing else changes (R151, R75). -/
def Obligations.PopLoadsTheRegister : Prop :=
  (∀ r : Reg, Decodes [0x14#8 + r.code.setWidth 8] (.pop r)) ∧
  ∀ (s : State) (r : Reg) (hi lo : Byte),
    s.readByte (s.sp + 1#16) = some hi → s.readByte (s.sp + 2#16) = some lo →
    ∃ v : Word, v.toNat = hi.toNat * 256 + lo.toNat ∧
      exec (.pop r) s = .next { State.set { s with sp := s.sp + 2#16 } r v with pc := s.pc + 1#16 }

/-- POP undoes PUS: after both, every general register is as before, SP among them (R75). -/
def Obligations.PopUndoesPus : Prop :=
  ∀ (s t : State) (r : Reg), exec (.pus r) s = .next t →
    ∃ u, exec (.pop r) t = .next u ∧ s.SameRegs u ∧ u.pc = s.pc + 2#16 ∧ u.mem = t.mem ∧ s.SameSystem u

/-- LJP, and the seven register jumps: an absolute target, taken under the condition of R153's table, else the next
instruction; PC alone changes (R152 to R160). -/
def Obligations.JumpsReachAbsoluteTargets : Prop :=
  (∀ b1 b2 : Byte, Decodes [0x1F, b1, b2] (.ljp (joinBytes b1 b2))) ∧
  (∀ r : Reg, Decodes [0x24#8 + r.code.setWidth 8] (.jmr r) ∧ Decodes [0x28#8 + r.code.setWidth 8] (.jzr r) ∧
    Decodes [0x2C#8 + r.code.setWidth 8] (.jnr r) ∧ Decodes [0x30#8 + r.code.setWidth 8] (.jlr r) ∧
    Decodes [0x34#8 + r.code.setWidth 8] (.jgr r) ∧ Decodes [0x38#8 + r.code.setWidth 8] (.jor r) ∧
    Decodes [0x3C#8 + r.code.setWidth 8] (.jur r)) ∧
  ∀ (s : State) (a : Word) (r : Reg),
    exec (.ljp a) s = .next { s with pc := a } ∧
    exec (.jmr r) s = .next { s with pc := s.get r } ∧
    exec (.jzr r) s = .next { s with pc := if s.rs.z = true then s.get r else s.pc + 1#16 } ∧
    exec (.jnr r) s = .next { s with pc := if s.rs.z = false then s.get r else s.pc + 1#16 } ∧
    exec (.jlr r) s = .next { s with pc := if s.rs.s = true then s.get r else s.pc + 1#16 } ∧
    exec (.jgr r) s = .next { s with pc := if s.rs.s = false then s.get r else s.pc + 1#16 } ∧
    exec (.jor r) s = .next { s with pc := if s.rs.c = true then s.get r else s.pc + 1#16 } ∧
    exec (.jur r) s = .next { s with pc := if s.rs.c = false then s.get r else s.pc + 1#16 }

/-- MOV copies all 16 bits of the LSB register into the MSB register; MVI writes all 16 bits of its immediate
(R161, R289). -/
def Obligations.MovesWriteWholeRegisters : Prop :=
  (∀ m l : Reg, Decodes [0x50#8 + 4#8 * m.code.setWidth 8 + l.code.setWidth 8] (.mov m l)) ∧
  (∀ (r : Reg) (b1 b2 : Byte), Decodes [0xF4#8 + r.code.setWidth 8, b1, b2] (.mvi r (joinBytes b1 b2))) ∧
  ∀ (s : State) (m l : Reg) (k : Word),
    exec (.mov m l) s = .next { s.set m (s.get l) with pc := s.pc + 1#16 } ∧
    exec (.mvi m k) s = .next { s.set m k with pc := s.pc + 3#16 }

/-- Every load reads one byte, at the address formed from the old registers, into bits 15:8 of its destination and keeps
bits 7:0; nothing else changes (R65, R162, R241, R285, R287). -/
def Obligations.LoadsWriteTheHighByte : Prop :=
  (∀ m l : Reg, Decodes [0x60#8 + 4#8 * m.code.setWidth 8 + l.code.setWidth 8] (.lod m l)) ∧
  (∀ (r : Reg) (b1 b2 : Byte), Decodes [0xE0#8 + r.code.setWidth 8, b1, b2] (.laa r (joinBytes b1 b2))) ∧
  (∀ (v : BitVec 4) (m l : Reg), Decodes [0xF0, (v ++ m.code : BitVec 6) ++ l.code] (.ldi m l v)) ∧
  (∀ (v : BitVec 2) (m d l : Reg),
    Decodes [0xF2, ((v ++ m.code : BitVec 4) ++ d.code : BitVec 6) ++ l.code] (.lri m d l v)) ∧
  ∀ (s : State) (m d l : Reg) (b : Byte), ∃ v : Word, v.toNat = b.toNat * 256 + (s.get m).toNat % 256 ∧
    (s.readByte (s.get l) = some b → exec (.lod m l) s = .next { s.set m v with pc := s.pc + 1#16 }) ∧
    (∀ a, s.readByte a = some b → exec (.laa m a) s = .next { s.set m v with pc := s.pc + 3#16 }) ∧
    (∀ k : BitVec 4, s.readByte (s.get l + BitVec.ofNat 16 k.toNat) = some b →
      exec (.ldi m l k) s = .next { s.set m v with pc := s.pc + 2#16 }) ∧
    (∀ k : BitVec 2, s.readByte (s.get d + s.get l + BitVec.ofNat 16 k.toNat) = some b →
      exec (.lri m d l k) s = .next { s.set m v with pc := s.pc + 2#16 })

/-- Every store writes bits 15:8 of its data register to the one byte at its address, and changes nothing else but PC
(R65, R163, R286, R288). -/
def Obligations.StoresWriteTheHighByte : Prop :=
  (∀ m l : Reg, Decodes [0x70#8 + 4#8 * m.code.setWidth 8 + l.code.setWidth 8] (.sto m l)) ∧
  (∀ (v : BitVec 4) (m l : Reg), Decodes [0xF1, (v ++ m.code : BitVec 6) ++ l.code] (.sti m l v)) ∧
  (∀ (v : BitVec 2) (m d l : Reg),
    Decodes [0xF3, ((v ++ m.code : BitVec 4) ++ d.code : BitVec 6) ++ l.code] (.sri m d l v)) ∧
  ∀ (s : State) (m d l : Reg) (k4 : BitVec 4) (k2 : BitVec 2) (i : Instr) (a : Word) (n : Nat),
    (i, a, n) ∈ [(Instr.sto m l, s.get m, 1), (.sti m l k4, s.get m + BitVec.ofNat 16 k4.toNat, 2),
      (.sri m d l k2, s.get d + s.get m + BitVec.ofNat 16 k2.toNat, 2)] →
    ∃ t, exec i s = .next t ∧
      (∃ b, t.readByte a = some b ∧ b.toNat = (s.get l).toNat / 256) ∧
      (∀ x, x ≠ a → t.readByte x = s.readByte x) ∧
      s.SameRegs t ∧ t.pc = s.pc + BitVec.ofNat 16 n ∧ s.SameSystem t

/-! ### Arithmetic and bitwise (spec/42_arithmetic.md, spec/43_bitwise.md) -/

/-- ADD, SUB and MUL in both forms: the sum, difference and product modulo 2^16 into the destination, the flags free,
nothing else changed (R180, R182 to R184). -/
def Obligations.AddSubMulWrap : Prop :=
  DecodesA2 0x80#8 .add ∧ DecodesA2 0x81#8 .sub ∧ DecodesA2 0x82#8 .mul ∧
  ∀ (s : State) (m : Reg) (o : A2Operand),
    (∃ (f : Flags) (n : Nat),
      exec (.add m o) s = .next { s.set m (BitVec.ofNat 16 ((s.get m).toNat + s.operandNat o)) with
        pc := s.pc + 2#16, rs := f, draws := n }) ∧
    (∃ (f : Flags) (n : Nat),
      exec (.sub m o) s = .next { s.set m (BitVec.ofInt 16 ((s.get m).toNat - s.operandNat o)) with
        pc := s.pc + 2#16, rs := f, draws := n }) ∧
    (∃ (f : Flags) (n : Nat),
      exec (.mul m o) s = .next { s.set m (BitVec.ofNat 16 ((s.get m).toNat * s.operandNat o)) with
        pc := s.pc + 2#16, rs := f, draws := n })

/-- There is one total function `DivMod` under the one law of R185 such that DIV writes its quotient and MOD its
remainder, the flags free, nothing else changed; a zero divisor stops both (U2), and no immediate is zero
(R185, R186). -/
def Obligations.DivAndModFollowOneDivMod : Prop :=
  DecodesA2 0x83#8 .div ∧ DecodesA2 0x84#8 .mod ∧
  ∃ divmod : Word → Word → Word × Word,
    (∀ a b : Word, a.toNat ≤ 0x7FFF → 1 ≤ b.toNat → b.toNat ≤ 0x7FFF →
      (divmod a b).1.toNat = a.toNat / b.toNat ∧
      (divmod a b).2.toNat = a.toNat - (divmod a b).1.toNat * b.toNat) ∧
    ∀ (s : State) (m : Reg) (o : A2Operand),
      (s.operandNat o = 0 →
        exec (.div m o) s = .fault .divideByZero ∧ exec (.mod m o) s = .fault .divideByZero) ∧
      (s.operandNat o ≠ 0 →
        (∃ (f : Flags) (n : Nat),
          exec (.div m o) s = .next { s.set m (divmod (s.get m) (BitVec.ofNat 16 (s.operandNat o))).1 with
            pc := s.pc + 2#16, rs := f, draws := n }) ∧
        (∃ (f : Flags) (n : Nat),
          exec (.mod m o) s = .next { s.set m (divmod (s.get m) (BitVec.ofNat 16 (s.operandNat o))).2 with
            pc := s.pc + 2#16, rs := f, draws := n }))

/-- NEG, NOT, AND, IOR and XOR on whole registers, the flags free, nothing else changed (R200 to R204). -/
def Obligations.BitwiseResults : Prop :=
  (∀ m l : Reg, Decodes [0x88#8 + m.code.setWidth 8] (.neg m) ∧ Decodes [0x8C#8 + m.code.setWidth 8] (.not m) ∧
    Decodes [0x90#8 + 4#8 * m.code.setWidth 8 + l.code.setWidth 8] (.and m l) ∧
    Decodes [0xA0#8 + 4#8 * m.code.setWidth 8 + l.code.setWidth 8] (.ior m l) ∧
    Decodes [0xB0#8 + 4#8 * m.code.setWidth 8 + l.code.setWidth 8] (.xor m l)) ∧
  ∀ (s : State) (m l : Reg), ∃ neg not and ior xor : Word,
    neg.toNat = (65536 - (s.get m).toNat) % 65536 ∧
    not.toNat = 65535 - (s.get m).toNat ∧
    (∀ k, and.getLsbD k = ((s.get m).getLsbD k && (s.get l).getLsbD k)) ∧
    (∀ k, ior.getLsbD k = ((s.get m).getLsbD k || (s.get l).getLsbD k)) ∧
    (∀ k, xor.getLsbD k = ((s.get m).getLsbD k != (s.get l).getLsbD k)) ∧
    (∃ f n, exec (.neg m) s = .next { s.set m neg with pc := s.pc + 1#16, rs := f, draws := n }) ∧
    (∃ f n, exec (.not m) s = .next { s.set m not with pc := s.pc + 1#16, rs := f, draws := n }) ∧
    (∃ f n, exec (.and m l) s = .next { s.set m and with pc := s.pc + 1#16, rs := f, draws := n }) ∧
    (∃ f n, exec (.ior m l) s = .next { s.set m ior with pc := s.pc + 1#16, rs := f, draws := n }) ∧
    (∃ f n, exec (.xor m l) s = .next { s.set m xor with pc := s.pc + 1#16, rs := f, draws := n })

/-- INC and DEC: plus and minus one modulo 2^16, the flags free, nothing else changed (R290, R291). -/
def Obligations.IncAndDecWrap : Prop :=
  (∀ r : Reg, Decodes [0xF8#8 + r.code.setWidth 8] (.inc r) ∧ Decodes [0xFC#8 + r.code.setWidth 8] (.dec r)) ∧
  ∀ (s : State) (r : Reg),
    (∃ (f : Flags) (n : Nat), exec (.inc r) s = .next { s.set r (BitVec.ofNat 16 ((s.get r).toNat + 1)) with
      pc := s.pc + 1#16, rs := f, draws := n }) ∧
    (∃ (f : Flags) (n : Nat), exec (.dec r) s = .next { s.set r (BitVec.ofNat 16 ((s.get r).toNat + 65535)) with
      pc := s.pc + 1#16, rs := f, draws := n })

/-! ### Subroutines (spec/44_subroutine.md) -/

/-- RCL discards `v` bytes and pops the return address; SP and PC alone change (R215). -/
def Obligations.RclDiscardsAndReturns : Prop :=
  (∀ v : BitVec 4, Decodes [0xC0#8 + v.setWidth 8] (.rcl v)) ∧
  ∀ (s : State) (v : BitVec 4) (hi lo : Byte),
    s.readByte (s.sp + BitVec.ofNat 16 (v.toNat + 1)) = some hi →
    s.readByte (s.sp + BitVec.ofNat 16 (v.toNat + 2)) = some lo →
    exec (.rcl v) s = .next { s with sp := s.sp + BitVec.ofNat 16 (v.toNat + 2), pc := joinBytes hi lo }

/-- CAL pushes the address after it, high byte at the lower address, jumps, and changes nothing else (R216). -/
def Obligations.CalPushesTheReturnAddress : Prop :=
  (∀ b1 b2 : Byte, Decodes [0xD0, b1, b2] (.cal (joinBytes b1 b2))) ∧
  ∀ (s : State) (a : Word), ∃ t, exec (.cal a) s = .next t ∧
    (∃ hi lo, t.readByte (s.sp - 1#16) = some hi ∧ t.readByte s.sp = some lo ∧
      hi.toNat * 256 + lo.toNat = (s.pc.toNat + 3) % 65536) ∧
    t.sp = s.sp - 2#16 ∧ t.ax = s.ax ∧ t.bx = s.bx ∧ t.cx = s.cx ∧ t.pc = a ∧ s.SameSystem t ∧
    ∀ x, x ≠ s.sp → x ≠ s.sp - 1#16 → t.readByte x = s.readByte x

/-- RCR takes PC and then SP from the four bytes at `x[r]`, both big-endian; nothing else changes, and with `r` = SP the
address is the old SP (R217). -/
def Obligations.RcrRestoresTheContext : Prop :=
  (∀ r : Reg, Decodes [0xD4#8 + r.code.setWidth 8] (.rcr r)) ∧
  ∀ (s : State) (r : Reg) (b0 b1 b2 b3 : Byte), s.holds (s.get r) [b0, b1, b2, b3] →
    exec (.rcr r) s = .next { s with pc := joinBytes b0 b1, sp := joinBytes b2 b3 }

/-- CAR stores the address after it and SP at `x[r]`, four bytes big-endian, wrapping, jumps, and changes nothing else
(R218). -/
def Obligations.CarSavesTheContext : Prop :=
  (∀ (r : Reg) (b1 b2 : Byte), Decodes [0xD8#8 + r.code.setWidth 8, b1, b2] (.car r (joinBytes b1 b2))) ∧
  ∀ (s : State) (r : Reg) (a : Word), ∃ t, exec (.car r a) s = .next t ∧
    (∃ b0 b1 b2 b3, t.holds (s.get r) [b0, b1, b2, b3] ∧
      b0.toNat * 256 + b1.toNat = (s.pc.toNat + 3) % 65536 ∧ b2.toNat * 256 + b3.toNat = s.sp.toNat) ∧
    s.SameRegs t ∧ t.pc = a ∧ s.SameSystem t ∧
    ∀ x, x ≠ s.get r → x ≠ s.get r + 1#16 → x ≠ s.get r + 2#16 → x ≠ s.get r + 3#16 → t.readByte x = s.readByte x

/-- A callee that has `v` bytes of locals on the stack returns with RCL `v` to the instruction after the CAL, with SP as
it was before the call, whatever else it did to memory (its pushes among it), the registers and the flags, so long as
the two bytes of the return address read as CAL left them (R219). -/
def Obligations.RclReturnsFromCal : Prop :=
  ∀ (s t u : State) (a : Word) (v : BitVec 4), exec (.cal a) s = .next t →
    u.readByte (s.sp - 1#16) = t.readByte (s.sp - 1#16) → u.readByte s.sp = t.readByte s.sp →
    u.sp = t.sp - BitVec.ofNat 16 v.toNat →
    exec (.rcl v) u = .next { u with sp := s.sp, pc := s.pc + 3#16 }

/-- RCR through the context that CAR saved goes on after the CAR with the SP of the caller, whatever the callee left in
SP, the other registers and the rest of memory (R219). -/
def Obligations.RcrReturnsFromCar : Prop :=
  ∀ (s t u : State) (r : Reg) (a : Word), exec (.car r a) s = .next t → u.get r = s.get r →
    (∀ x, x ∈ [s.get r, s.get r + 1#16, s.get r + 2#16, s.get r + 3#16] → u.readByte x = t.readByte x) →
    exec (.rcr r) u = .next { u with sp := s.sp, pc := s.pc + 3#16 }

/-! ### Shifts and rotates (spec/45_shift_with_carry.md, spec/47_shift_rotate.md) -/

/-- SCL and SCR by 1 to 15: the exact value with the vacated bits all the old C, the new C the last bit shifted out; by
0 the destination keeps its value; from 16 on they stop (U4); Z and S free, C free for 0 (R230 to R232). -/
def Obligations.ShiftsWithCarry : Prop :=
  DecodesA2 0xDC#8 .scl ∧ DecodesA2 0xDD#8 .scr ∧
  ∀ (s : State) (m : Reg) (o : A2Operand) (a n c : Nat),
    a = (s.get m).toNat → n = s.operandNat o → c = (if s.rs.c = true then 1 else 0) →
    (16 ≤ n → exec (.scl m o) s = .fault (.shiftAmount n) ∧ exec (.scr m o) s = .fault (.shiftAmount n)) ∧
    (n = 0 →
      (∃ (f : Flags) (k : Nat), exec (.scl m o) s = .next { s with pc := s.pc + 2#16, rs := f, draws := k }) ∧
      (∃ (f : Flags) (k : Nat), exec (.scr m o) s = .next { s with pc := s.pc + 2#16, rs := f, draws := k })) ∧
    (1 ≤ n → n ≤ 15 →
      (∃ (v : Word) (z f : Bool) (k : Nat), v.toNat = a * 2 ^ n % 65536 + c * (2 ^ n - 1) ∧
        exec (.scl m o) s = .next { s.set m v with
          pc := s.pc + 2#16, rs := { z := z, c := (s.get m).getLsbD (16 - n), s := f }, draws := k }) ∧
      (∃ (v : Word) (z f : Bool) (k : Nat), v.toNat = a / 2 ^ n + c * ((2 ^ n - 1) * 2 ^ (16 - n)) ∧
        exec (.scr m o) s = .next { s.set m v with
          pc := s.pc + 2#16, rs := { z := z, c := (s.get m).getLsbD (n - 1), s := f }, draws := k }))

/-- ROL, ROR, SHL and SHR by 1 to 15: the exact values, SHR filling with the flag S; by 0 the destination keeps its
value; from 16 on they stop (U4); the flags free, nothing else changed (R230, R250 to R254). -/
def Obligations.PlainShiftsAndRotates : Prop :=
  DecodesA2 0xE4#8 .rol ∧ DecodesA2 0xE5#8 .ror ∧ DecodesA2 0xE6#8 .shl ∧ DecodesA2 0xE7#8 .shr ∧
  ∀ (s : State) (m : Reg) (o : A2Operand) (a n fill : Nat) (i : Instr),
    a = (s.get m).toNat → n = s.operandNat o → fill = (if s.rs.s = true then 1 else 0) →
    i ∈ [Instr.rol m o, .ror m o, .shl m o, .shr m o] →
    (16 ≤ n → exec i s = .fault (.shiftAmount n)) ∧
    (n = 0 → ∃ (f : Flags) (k : Nat), exec i s = .next { s with pc := s.pc + 2#16, rs := f, draws := k }) ∧
    (1 ≤ n → n ≤ 15 → ∃ (v : Word) (f : Flags) (k : Nat),
      (i = .rol m o → v.toNat = a * 2 ^ n % 65536 + a / 2 ^ (16 - n)) ∧
      (i = .ror m o → v.toNat = a / 2 ^ n + a * 2 ^ (16 - n) % 65536) ∧
      (i = .shl m o → v.toNat = a * 2 ^ n % 65536) ∧
      (i = .shr m o → v.toNat = a / 2 ^ n + fill * ((2 ^ n - 1) * 2 ^ (16 - n))) ∧
      exec i s = .next { s.set m v with pc := s.pc + 2#16, rs := f, draws := k })

/-- `ROL r, n` equals `ROR r, 16 - n` (R251): both leave the same registers, PC and memory; the flags of each are its
own draws, and nothing is said of them. -/
def Obligations.RolIsRorOfTheRest : Prop :=
  ∀ (s : State) (m : Reg) (v w : BitVec 4), v.toNat + w.toNat = 16 →
    ∃ t u, exec (.rol m (.imm v)) s = .next t ∧ exec (.ror m (.imm w)) s = .next u ∧
      t.SameRegs u ∧ u.pc = t.pc ∧ u.mem = t.mem

/-! ### Interrupt-flag test, flag clearing, local branches (spec/46_irf_laa.md, spec/48_local_branch.md) -/

/-- IRF: Z is 1 exactly when some flag of RF under the mask is raised; nothing else changes but PC (R240). -/
def Obligations.IrfTestsTheMask : Prop :=
  (∀ k : Byte, Decodes [0xDF, k] (.irf k)) ∧
  ∀ (s : State) (k : Byte), ∃ z : Bool, (z = true ↔ ∃ j, s.rf.getLsbD j = true ∧ k.getLsbD j = true) ∧
    exec (.irf k) s = .next { s with rs := { z := z, c := s.rs.c, s := s.rs.s }, pc := s.pc + 2#16 }

/-- CLI: mask bits 7, 6 and 5 clear Z, C and S; bits 4:0 are ignored; nothing else changes but PC (R265). -/
def Obligations.CliClearsMaskedFlags : Prop :=
  ∀ k : Byte, ∃ z c f : Bool, z = k.getLsbD 7 ∧ c = k.getLsbD 6 ∧ f = k.getLsbD 5 ∧
    Decodes [0xE8, k] (.cli z c f) ∧
    ∀ s : State, exec (.cli z c f) s = .next { s with
      rs := { z := if k.getLsbD 7 = true then false else s.rs.z
              c := if k.getLsbD 6 = true then false else s.rs.c
              s := if k.getLsbD 5 = true then false else s.rs.s }
      pc := s.pc + 2#16 }

/-- The seven local branches: the target is the branch's own address plus the signed displacement modulo 2^16, taken
under the condition of R266's table, else the next instruction; PC alone changes (R266 to R273). -/
def Obligations.LocalBranchesAreRelative : Prop :=
  (∀ d : Byte, Decodes [0xE9, d] (.jmp d) ∧ Decodes [0xEA, d] (.jiz d) ∧ Decodes [0xEB, d] (.jnz d) ∧
    Decodes [0xEC, d] (.jlt d) ∧ Decodes [0xED, d] (.jge d) ∧ Decodes [0xEE, d] (.jof d) ∧ Decodes [0xEF, d] (.jnf d)) ∧
  ∀ (s : State) (d : Byte), ∃ target : Word,
    (target.toNat : Int) = ((s.pc.toNat : Int) + d.toInt) % 65536 ∧
    exec (.jmp d) s = .next { s with pc := target } ∧
    exec (.jiz d) s = .next { s with pc := if s.rs.z = true then target else s.pc + 2#16 } ∧
    exec (.jnz d) s = .next { s with pc := if s.rs.z = false then target else s.pc + 2#16 } ∧
    exec (.jlt d) s = .next { s with pc := if s.rs.s = true then target else s.pc + 2#16 } ∧
    exec (.jge d) s = .next { s with pc := if s.rs.s = false then target else s.pc + 2#16 } ∧
    exec (.jof d) s = .next { s with pc := if s.rs.c = true then target else s.pc + 2#16 } ∧
    exec (.jnf d) s = .next { s with pc := if s.rs.c = false then target else s.pc + 2#16 }

/-! ### Reserved and unassigned first bytes (spec/30_encoding.md R96, R97) -/

/-- Executing a reserved or unassigned first byte stops with U1, in every state (R96, R97). The spec knows no length for
these bytes: that each decodes, alone, to its row is the model's choice (log 15), and so is the byte that the fault
carries (log 13). -/
def Obligations.ReservedBytesStop : Prop :=
  ∀ (i : Instr) (b : Byte),
    ((i = .reserved07 ∧ b = 0x07#8) ∨ (i = .reserved0B ∧ b = 0x0B#8) ∨
      (∃ k, i = .reserved0C k ∧ b = 0x0C#8 + k.setWidth 8) ∨ (∃ k, i = .reserved18 k ∧ b = 0x18#8 + k.setWidth 8) ∨
      (∃ k, i = .reserved1C k ∧ b = 0x1C#8 + k.setWidth 8) ∨ (i = .reserved1E ∧ b = 0x1E#8) ∨
      (∃ k, i = .unassigned20 k ∧ b = 0x20#8 + k.setWidth 8) ∨ (∃ k, i = .reserved40 k ∧ b = 0x40#8 + k.setWidth 8) ∨
      (i = .reserved85 ∧ b = 0x85#8) ∨ (∃ k, i = .reserved86 k ∧ b = 0x86#8 + k.setWidth 8) ∨
      (i = .unassignedD1 ∧ b = 0xD1#8) ∨ (∃ k, i = .unassignedD2 k ∧ b = 0xD2#8 + k.setWidth 8) ∨
      (i = .reservedDE ∧ b = 0xDE#8)) →
    Decodes [b] i ∧ ∀ s : State, exec i s = .fault (.reservedOpcode b)

/-! ### The step (spec/20_memory.md R77, spec/60_exceptions.md R328) -/

/-- Where the machine runs an instruction at this boundary, and the bytes at PC decode to a well-formed instruction, the
step is that instruction's meaning on the state in which the boundary's events have arrived (the head of `env`, 0 past
its end: log 8). -/
def Obligations.StepRunsTheDecodedInstruction : Prop :=
  ∀ (s : State) (bs : List Byte) (i : Instr), s.Runs → s.holds s.pc bs → decode bs = .ok (i, []) →
    i.wellFormed = true →
    step s = exec i { s with rf := s.rf ||| s.env.headD 0x00#8, env := s.env.tail }

/-- An instruction encoded at PC is executed by the next step, wherever it lies, across 0xFFFF too (R25, R77). -/
def Obligations.StepExecutesEncodedInstruction : Prop :=
  ∀ (s : State) (i : Instr), i.wellFormed = true → s.Runs → s.holds s.pc (encode i) →
    step s = exec i s.arrive

/-- A due interrupt is entered at the boundary, awake or asleep, with PC as the return address, and no instruction runs
(R313, R315, R317, R327; the event is the head of `env`, log 8). -/
def Obligations.StepEntersADueInterrupt : Prop :=
  ∀ (s : State) (rf : Byte), s.stuck = false → s.ie = true → s.inh = false →
    rf = s.rf ||| s.env.headD 0x00#8 → rf ≠ 0x00#8 →
    step s = .next { s with
      rf := rf
      env := s.env.tail
      is := { ax := s.ax, bx := s.bx, cx := s.cx, sp := s.sp, pc := s.pc, rs := s.rs, valid := true }
      inh := true
      sleep := false
      pc := 0x0000#16 }

/-- A sleeping machine to which no interrupt is due stays asleep: the events of the boundary arrive in RF and nothing
else changes (R327, R328; the event is the head of `env`, log 8). -/
def Obligations.SleepChangesOnlyTheInterruptFlags : Prop :=
  ∀ (s : State) (rf : Byte), s.stuck = false → s.sleep = true → rf = s.rf ||| s.env.headD 0x00#8 →
    (s.ie = false ∨ s.inh = true ∨ rf = 0x00#8) →
    step s = .next { s with rf := rf, env := s.env.tail }

/-- Every byte that STO, STI, SRI, PUS, CAL or CAR stores is what the next fetch reads at its address (R72): as the first
byte of an instruction whose other bytes hold values, and at any place in whatever a fetch reads. A reserved or unassigned
byte is fetched alone (log 15). -/
def Obligations.StoreIsSeenByTheNextFetch : Prop :=
  ∀ (i : Instr) (s t : State) (a : Word) (b : Byte), exec i s = .next t → (a, b) ∈ s.stored i →
    (∀ tl, tl.length + 1 = fetchLength b → t.holds (a + 1#16) tl → State.fetch { t with pc := a } = .ok (b :: tl)) ∧
    (∀ (p : Word) (bs : List Byte) (k : Nat) (x : Byte), State.fetch { t with pc := p } = .ok bs →
      bs[k]? = some x → p + BitVec.ofNat 16 k = a → x = b)

/-- A read of a byte that holds no value stops (U9), and the fault names the first such byte: any byte of the instruction
at PC, the byte of a load, either byte of POP and RCL, any of the four of RCR. `bs` are the bytes before it, which hold
values. The fault is the spec's "safe" treatment of R37 and U9, the model's choice of log 6. -/
def Obligations.UnwrittenBytesStop : Prop :=
  ∀ (s : State) (a : Word), s.readByte a = none →
    (∀ bs, s.Runs → s.holds s.pc bs → (∀ b0, bs.head? = some b0 → bs.length < fetchLength b0) →
      s.pc + BitVec.ofNat 16 bs.length = a → step s = .fault (.unwrittenByte a)) ∧
    (∀ m, exec (.laa m a) s = .fault (.unwrittenByte a)) ∧
    (∀ m l, s.get l = a → exec (.lod m l) s = .fault (.unwrittenByte a)) ∧
    (∀ m l (k : BitVec 4), s.get l + BitVec.ofNat 16 k.toNat = a → exec (.ldi m l k) s = .fault (.unwrittenByte a)) ∧
    (∀ m d l (k : BitVec 2), s.get d + s.get l + BitVec.ofNat 16 k.toNat = a →
      exec (.lri m d l k) s = .fault (.unwrittenByte a)) ∧
    (∀ r bs, bs.length < 2 → s.holds (s.sp + 1#16) bs → s.sp + BitVec.ofNat 16 (1 + bs.length) = a →
      exec (.pop r) s = .fault (.unwrittenByte a)) ∧
    (∀ (v : BitVec 4) bs, bs.length < 2 → s.holds (s.sp + BitVec.ofNat 16 (v.toNat + 1)) bs →
      s.sp + BitVec.ofNat 16 (v.toNat + 1 + bs.length) = a → exec (.rcl v) s = .fault (.unwrittenByte a)) ∧
    (∀ r bs, bs.length < 4 → s.holds (s.get r) bs → s.get r + BitVec.ofNat 16 bs.length = a →
      exec (.rcr r) s = .fault (.unwrittenByte a))

/-- No step is refused: every byte that can be fetched is an instruction or a row of the map (R95, R104). -/
def Obligations.StepNeverRefuses : Prop := ∀ (s : State) (r : Refusal), step s ≠ .refused r

/-- No instruction traps (R310, R311): the only ones that can stop are the reserved rows and those for which the spec
leaves a case without a meaning, each with the reason of that case. -/
def Obligations.OnlyUnspecifiedCasesStop : Prop :=
  ∀ (i : Instr) (s : State) (r : Fault), exec i s = .fault r →
    match i with
    | .int => r = .intNotAccepted ∧ ¬(s.ie = true ∧ s.inh = false)
    | .ret => r = .retBeforeEntry ∧ s.is.valid = false
    | .div _ o | .mod _ o => r = .divideByZero ∧ s.operandNat o = 0
    | .scl _ o | .scr _ o | .rol _ o | .ror _ o | .shl _ o | .shr _ o =>
      r = .shiftAmount (s.operandNat o) ∧ 16 ≤ s.operandNat o
    | .lod _ _ | .laa _ _ | .ldi _ _ _ | .lri _ _ _ _ | .pop _ | .rcl _ | .rcr _ =>
      ∃ a, r = .unwrittenByte a ∧ s.readByte a = none
    | .reserved07 | .reserved0B | .reserved0C _ | .reserved18 _ | .reserved1C _ | .reserved1E | .unassigned20 _
    | .reserved40 _ | .reserved85 | .reserved86 _ | .unassignedD1 | .unassignedD2 _ | .reservedDE =>
      ∃ b, r = .reservedOpcode b
    | _ => False

/-- The end of a run is a fixed point: a step changes bits of RF that the environment raises and nothing else, and the
state is still an end of run (R357). Bits that are already pending where an entry is possible are ruled out by a
premise: there the entry comes first. `env` gives 0 past its end (log 8). -/
def Obligations.EndOfRunIsAFixedPoint : Prop :=
  ∀ s : State, s.EndOfRun → (s.ie = true → s.inh = false → s.rf = 0x00#8) →
    ∃ t, step s = .next t ∧ t = { s with rf := s.rf ||| s.env.headD 0x00#8, env := s.env.tail } ∧ t.EndOfRun ∧
      (s.ie = true → s.inh = false → t.rf = 0x00#8)

/-- While INH = 1 no entry is made: whatever a step does, IS keeps its contents, unless it is a reset, which empties it
(R320, R33). -/
def Obligations.NothingReentersTheRoutine : Prop :=
  ∀ s t : State, s.inh = true → step s = .next t → t.is = s.is ∨ (t.is.valid = false ∧ t.inh = false)

/-- An interrupt is invisible to the interrupted program except through memory: however many steps the routine runs
without leaving it, and whatever it does to the registers, the flags and RF, a RET then goes on at the return address
with the interrupted program's registers and flags (R33, R138, R317, R320). -/
def Obligations.InterruptIsInvisibleToTheProgram : Prop :=
  ∀ (k : Nat) (s t : State) (ret : Word),
    Sys2Proof.core.run k (s.interruptEntry ret) = .next t →
    (∀ j u, j ≤ k → Sys2Proof.core.run j (s.interruptEntry ret) = .next u → State.inh u = true) →
    exec .ret t = .next { t with
      ax := s.ax, bx := s.bx, cx := s.cx, sp := s.sp, rs := s.rs, pc := ret, rf := 0x00#8, inh := false }

/-! ### What no instruction changes (the prose of spec/10_state.md, spec/20_memory.md, spec/60_exceptions.md) -/

/-- IE, INH, SLEEP and IS are written by these instructions alone: IE by ENI, DEI and RST; INH by INT, RET and RST;
SLEEP by HLT, INT and RST; IS by INT and RST (R30 to R33). -/
def Obligations.ControlStateIsWrittenOnlyBy : Prop :=
  ∀ (i : Instr) (s t : State), exec i s = .next t →
    (match i with | .eni => t.ie = true | .dei => t.ie = false | .rst => True | _ => t.ie = s.ie) ∧
    (match i with | .int => t.inh = true | .ret | .rst => t.inh = false | _ => t.inh = s.inh) ∧
    (match i with
      | .hlt => t.sleep = true → s.sleep = true ∨ (s.ie = true ∧ s.inh = false)
      | .int | .rst => t.sleep = false
      | _ => t.sleep = s.sleep) ∧
    (match i with | .int => t.is.valid = true | .rst => t.is.valid = false | _ => t.is = s.is)

/-- No instruction sets a bit of RF: RET, ENI and HLT clear it, reset leaves it unspecified, every other instruction
leaves it alone (R29, R313). -/
def Obligations.RfIsOnlyClearedByInstructions : Prop :=
  ∀ (i : Instr) (s t : State), exec i s = .next t →
    match i with
    | .ret | .eni | .hlt => t.rf = 0x00#8
    | .rst => True
    | _ => t.rf = s.rf

/-- The flag classes of R28: CMP and CMU leave C, IRF leaves C and S, CLI can only clear, RET restores from IS, the
draw-class instructions and RST leave the flags free, and every other instruction leaves them unchanged. -/
def Obligations.FlagsChangeOnlyAsTheTableSays : Prop :=
  ∀ (i : Instr) (s t : State), exec i s = .next t →
    match i with
    | .cmp | .cmu => t.rs.c = s.rs.c
    | .irf _ => t.rs.c = s.rs.c ∧ t.rs.s = s.rs.s
    | .cli _ _ _ =>
      (t.rs.z = true → s.rs.z = true) ∧ (t.rs.c = true → s.rs.c = true) ∧ (t.rs.s = true → s.rs.s = true)
    | .ret => t.rs = s.is.rs
    | .add _ _ | .sub _ _ | .mul _ _ | .div _ _ | .mod _ _ | .neg _ | .not _ | .and _ _ | .ior _ _ | .xor _ _
    | .scl _ _ | .scr _ _ | .rol _ _ | .ror _ _ | .shl _ _ | .shr _ _ | .inc _ | .dec _ | .rst => True
    | _ => t.rs = s.rs

/-- Memory is written by STO, STI, SRI, PUS, CAL and CAR alone (R61): every byte reads as before after any other
instruction. -/
def Obligations.MemoryIsWrittenOnlyByStores : Prop :=
  ∀ (i : Instr) (s t : State), exec i s = .next t →
    match i with
    | .sto _ _ | .sti _ _ _ | .sri _ _ _ _ | .pus _ | .cal _ | .car _ _ => True
    | _ => ∀ a, t.readByte a = s.readByte a

/-- Every instruction but the jumps, branches, calls, returns, INT, RET and RST advances PC by its length
(R23, R25, R90). -/
def Obligations.PcAdvancesByTheLength : Prop :=
  ∀ (i : Instr) (s t : State), exec i s = .next t →
    match i with
    | .ljp _ | .jmr _ | .jzr _ | .jnr _ | .jlr _ | .jgr _ | .jor _ | .jur _ | .jmp _ | .jiz _ | .jnz _ | .jlt _ | .jge _
    | .jof _ | .jnf _ | .cal _ | .rcl _ | .car _ _ | .rcr _ | .int | .ret | .rst => True
    | _ => t.pc = s.pc + BitVec.ofNat 16 (encode i).length

/-- A general register changes only as the destination of the instruction, or as SP in PUS, POP, CAL, RCL and RCR; RET
and RST write all four (R22, and the addressing modes of spec/49_indexed_immediate_inc.md: no base or index register is
modified). -/
def Obligations.RegistersChangeOnlyAsDestinations : Prop :=
  ∀ (i : Instr) (s t : State) (q : Reg), exec i s = .next t →
    match i with
    | .ret | .rst => True
    | .pop r => q = r ∨ q = .sp ∨ t.get q = s.get q
    | .pus _ | .cal _ | .rcl _ | .rcr _ => q = .sp ∨ t.get q = s.get q
    | .mov m _ | .lod m _ | .add m _ | .sub m _ | .mul m _ | .div m _ | .mod m _ | .neg m | .not m | .and m _ | .ior m _
    | .xor m _ | .scl m _ | .scr m _ | .laa m _ | .rol m _ | .ror m _ | .shl m _ | .shr m _ | .ldi m _ _ | .lri m _ _ _
    | .mvi m _ | .inc m | .dec m => q = m ∨ t.get q = s.get q
    | _ => t.get q = s.get q

/-- No instruction touches the environment's values to come, only SWP emits an event, only HLT can leave the machine
stuck, and the draw counter never goes back; it moves exactly for the draw-class instructions and RST (R28, R136, R325;
the counter and the mark are the model's, logs 9 and 12). -/
def Obligations.ModelFieldsMoveOnlyAsNamed : Prop :=
  ∀ (i : Instr) (s t : State), exec i s = .next t →
    t.env = s.env ∧
    t.output = (if i = .swp then s.output ++ [.swapBuffers] else s.output) ∧
    (i ≠ .hlt → t.stuck = s.stuck) ∧
    (match i with
      | .add _ _ | .sub _ _ | .mul _ _ | .div _ _ | .mod _ _ | .neg _ | .not _ | .and _ _ | .ior _ _ | .xor _ _
      | .scl _ _ | .scr _ _ | .rol _ _ | .ror _ _ | .shl _ _ | .shr _ _ | .inc _ | .dec _ | .rst => s.draws < t.draws
      | _ => t.draws = s.draws)

/-! ### Reset and the invariant (spec/70_reset_and_hazards.md) -/

/-- Every step keeps the invariant of the machine: memory stays canonical, it sleeps only where an interrupt can wake
it, the routine runs only with IS filled, and it is stuck only as U8 leaves it (the mark and the canonical form are the
model's, logs 6 and 12). -/
def Obligations.StepKeepsTheInvariant : Prop := ∀ s t : State, s.Inv → step s = .next t → t.Inv

/-- The invariant holds right after power-on, whatever the image, the unspecified values and the environment are, and at
`State.reset`. -/
def Obligations.InvariantHoldsAfterReset : Prop :=
  State.reset.Inv ∧
  ∀ (image : Memory) (u : ResetValues) (env : List Byte), image.wf = true → (State.powerOn image u env).Inv

/-- What reset leaves (R36, R351): PC = RESET_PC = 0, INH = SLEEP = IS.valid = 0, memory the image, and every other
value any value at all: the one given. `State.reset` is the instance with an empty image and zeros (logs 1 to 8). -/
def Obligations.PowerOnLeavesTheResetState : Prop :=
  (∀ (image : Memory) (u : ResetValues) (env : List Byte) (s : State), s = State.powerOn image u env →
    s.pc = 0x0000#16 ∧ s.inh = false ∧ s.sleep = false ∧ s.is.valid = false ∧ s.mem = image ∧
    s.ax = u.ax ∧ s.bx = u.bx ∧ s.cx = u.cx ∧ s.sp = u.sp ∧ s.rs = u.rs ∧ s.rf = u.rf ∧ s.ie = u.ie) ∧
  ∃ u : ResetValues, State.reset = State.powerOn [] u []
end

