-- ==== Sys2Proof/Laws/Decode.lean ====
section
/-! SUPPORT. The small lemmas of the decoder and the encoder: bytes and their halves, selectors, the fields of the bytes
the encoder writes, and what `decode` answers once the row of the first byte is known. -/

namespace Sys2Proof

/-! ### Bytes and words -/

theorem BitVec.getLsbD_field {w : Nat} (v : BitVec w) (start len i : Nat) :
    (v.extractLsb' start len).getLsbD i = (decide (i < len) && v.getLsbD (start + i)) := by
  simp

@[simp] theorem joinBytes_hiByte_loByte (v : Word) : joinBytes (hiByte v) (loByte v) = v := by
  apply BitVec.eq_of_getLsbD_eq
  intro i hi
  simp only [joinBytes, hiByte, loByte, BitVec.getLsbD_append, BitVec.getLsbD_field]
  by_cases h : i < 8
  · simp [h]
  · have h1 : i - 8 < 8 := by omega
    have h2 : 8 + (i - 8) = i := by omega
    simp [h, h1, h2]

@[simp] theorem hiByte_joinBytes (h l : Byte) : hiByte (joinBytes h l) = h := by
  apply BitVec.eq_of_getLsbD_eq
  intro i hi
  simp only [joinBytes, hiByte, BitVec.getLsbD_append, BitVec.getLsbD_field]
  simp [hi]

@[simp] theorem loByte_joinBytes (h l : Byte) : loByte (joinBytes h l) = l := by
  apply BitVec.eq_of_getLsbD_eq
  intro i hi
  simp only [joinBytes, loByte, BitVec.getLsbD_append, BitVec.getLsbD_field]
  simp [hi]

theorem toNat_hiByte (v : Word) : (hiByte v).toNat = v.toNat / 256 := by
  have := v.isLt
  simp [hiByte, Nat.shiftRight_eq_div_pow]
  omega

theorem toNat_loByte (v : Word) : (loByte v).toNat = v.toNat % 256 := by
  simp [loByte]

theorem toNat_joinBytes (h l : Byte) : (joinBytes h l).toNat = h.toNat * 256 + l.toNat := by
  have := h.isLt
  have := l.isLt
  have hh : hiByte (joinBytes h l) = h := hiByte_joinBytes h l
  have hl : loByte (joinBytes h l) = l := loByte_joinBytes h l
  have h1 := toNat_hiByte (joinBytes h l)
  have h2 := toNat_loByte (joinBytes h l)
  rw [hh] at h1
  rw [hl] at h2
  omega

/-! ### Selectors (R92) -/

@[simp] theorem Reg.ofCode_code (r : Reg) : Reg.ofCode r.code = r := by cases r <;> rfl

@[simp] theorem Reg.code_ofCode (c : BitVec 2) : (Reg.ofCode c).code = c := by revert c; decide

/-! ### The fields of the bytes the encoder writes (R91) -/

@[simp] theorem fieldLow_byteR (op : BitVec 6) (r : Reg) : fieldLow (byteR op r) = r := by
  cases r <;> (revert op; decide)

@[simp] theorem fieldLow_byteRR (op : BitVec 4) (m l : Reg) : fieldLow (byteRR op m l) = l := by
  cases m <;> cases l <;> (revert op; decide)

@[simp] theorem fieldMid_byteRR (op : BitVec 4) (m l : Reg) : fieldMid (byteRR op m l) = m := by
  cases m <;> cases l <;> (revert op; decide)

@[simp] theorem fieldV4_byteRR (op : BitVec 4) (m l : Reg) : fieldV4 (byteRR op m l) = op := by
  cases m <;> cases l <;> (revert op; decide)

@[simp] theorem fieldMid_byteA2 (m : Reg) (o : A2Operand) : fieldMid (byteA2 m o) = m := by
  cases o <;> simp [byteA2]

theorem fieldA2_byteA2 (m : Reg) (o : A2Operand) (h : o.wellFormed = true) : fieldA2 (byteA2 m o) = o := by
  cases o with
  | reg l => simp [byteA2, fieldA2]
  | imm v =>
    have hv : ¬ v = 0#4 := by simpa [A2Operand.wellFormed] using h
    simp [byteA2, fieldA2, hv]

@[simp] theorem fieldHigh_byteY2 (v : BitVec 2) (m d l : Reg) : fieldHigh (byteY2 v m d l) = m := by
  cases m <;> cases d <;> cases l <;> (revert v; decide)

@[simp] theorem fieldMid_byteY2 (v : BitVec 2) (m d l : Reg) : fieldMid (byteY2 v m d l) = d := by
  cases m <;> cases d <;> cases l <;> (revert v; decide)

@[simp] theorem fieldLow_byteY2 (v : BitVec 2) (m d l : Reg) : fieldLow (byteY2 v m d l) = l := by
  cases m <;> cases d <;> cases l <;> (revert v; decide)

@[simp] theorem fieldV2_byteY2 (v : BitVec 2) (m d l : Reg) : fieldV2 (byteY2 v m d l) = v := by
  cases m <;> cases d <;> cases l <;> (revert v; decide)

theorem byteM2_bits (z c s : Bool) :
    (byteM2 z c s).getLsbD 7 = z ∧ (byteM2 z c s).getLsbD 6 = c ∧ (byteM2 z c s).getLsbD 5 = s := by
  revert z c s; decide

/-- The second byte of an A2 instruction decodes to a well-formed operand (R94). -/
theorem fieldA2_wellFormed (b : Byte) : (fieldA2 b).wellFormed = true := by
  by_cases h : fieldV4 b = 0#4
  · simp [fieldA2, h, A2Operand.wellFormed]
  · simp [fieldA2, h, A2Operand.wellFormed]

/-! ### The opcode map and `decode` (R95, R104) -/

/-- The map accounts for every first byte (R95). -/
theorem rowOf_isSome (b : Byte) : (rowOf b).isSome = true := by revert b; decide +kernel

/-- An instruction is one to three bytes long (R90). -/
theorem fetchLength_bounds (b : Byte) : 1 ≤ fetchLength b ∧ fetchLength b ≤ 3 := by revert b; decide +kernel

/-- What `decode` answers once the row is known and the bytes are there. -/
theorem decode_of_row {b0 : Byte} {rest : List Byte} {row : OpcodeRow} (h : rowOf b0 = some row)
    (hl : fetchLength b0 - 1 ≤ rest.length) :
    decode (b0 :: rest) =
      .ok (row.build b0 (rest.getD 0 0) (rest.getD 1 0), rest.drop (fetchLength b0 - 1)) := by
  have : ¬ rest.length < fetchLength b0 - 1 := by omega
  simp only [decode, h, this, if_false]

/-- Everything `decode` can answer: the row of the first byte reads the fields, and the bytes after it are left. -/
theorem decode_ok {bs rest : List Byte} {i : Instr} (h : decode bs = .ok (i, rest)) :
    ∃ b0 tl row, bs = b0 :: tl ∧ rowOf b0 = some row ∧ fetchLength b0 - 1 ≤ tl.length ∧
      i = row.build b0 (tl.getD 0 0) (tl.getD 1 0) ∧ rest = tl.drop (fetchLength b0 - 1) := by
  cases bs with
  | nil => simp [decode] at h
  | cons b0 tl =>
    cases hr : rowOf b0 with
    | none => simp [decode, hr] at h
    | some row =>
      by_cases hl : tl.length < fetchLength b0 - 1
      · simp [decode, hr, hl] at h
      · simp only [decode, hr, hl, if_false, Except.ok.injEq, Prod.mk.injEq] at h
        exact ⟨b0, tl, row, rfl, hr, by omega, h.1.symm, h.2.symm⟩

/-- With as many bytes as a fetch reads, `decode` answers an instruction and leaves nothing. -/
theorem decode_fetched {b0 : Byte} {tl : List Byte} (h : tl.length = fetchLength b0 - 1) :
    ∃ i, decode (b0 :: tl) = .ok (i, []) := by
  obtain ⟨row, hr⟩ := Option.isSome_iff_exists.1 (rowOf_isSome b0)
  exact ⟨_, by rw [decode_of_row hr (by omega), List.drop_eq_nil_of_le (by omega)]⟩

end Sys2Proof
end

