-- ==== Sys2Proof/Laws/State.lean ====
section
/-! SUPPORT. What each update of the state does to each field: one lemma per field per update, true by `rfl`, so that no
proof unfolds a record update. -/

namespace Sys2Proof.Machine

variable (s : State)

/-! ### `set` -/

@[simp] theorem State.set_ax (r : Reg) (v : Word) : (s.set r v).ax = if r = .ax then v else s.ax := rfl
@[simp] theorem State.set_bx (r : Reg) (v : Word) : (s.set r v).bx = if r = .bx then v else s.bx := rfl
@[simp] theorem State.set_cx (r : Reg) (v : Word) : (s.set r v).cx = if r = .cx then v else s.cx := rfl
@[simp] theorem State.set_sp (r : Reg) (v : Word) : (s.set r v).sp = if r = .sp then v else s.sp := rfl
@[simp] theorem State.set_pc (r : Reg) (v : Word) : (s.set r v).pc = s.pc := rfl
@[simp] theorem State.set_rs (r : Reg) (v : Word) : (s.set r v).rs = s.rs := rfl
@[simp] theorem State.set_rf (r : Reg) (v : Word) : (s.set r v).rf = s.rf := rfl
@[simp] theorem State.set_ie (r : Reg) (v : Word) : (s.set r v).ie = s.ie := rfl
@[simp] theorem State.set_inh (r : Reg) (v : Word) : (s.set r v).inh = s.inh := rfl
@[simp] theorem State.set_sleep (r : Reg) (v : Word) : (s.set r v).sleep = s.sleep := rfl
@[simp] theorem State.set_is (r : Reg) (v : Word) : (s.set r v).is = s.is := rfl
@[simp] theorem State.set_mem (r : Reg) (v : Word) : (s.set r v).mem = s.mem := rfl
@[simp] theorem State.set_env (r : Reg) (v : Word) : (s.set r v).env = s.env := rfl
@[simp] theorem State.set_output (r : Reg) (v : Word) : (s.set r v).output = s.output := rfl
@[simp] theorem State.set_draws (r : Reg) (v : Word) : (s.set r v).draws = s.draws := rfl
@[simp] theorem State.set_stuck (r : Reg) (v : Word) : (s.set r v).stuck = s.stuck := rfl

/-! ### `advance` -/

@[simp] theorem State.advance_ax (n : Nat) : (s.advance n).ax = s.ax := rfl
@[simp] theorem State.advance_bx (n : Nat) : (s.advance n).bx = s.bx := rfl
@[simp] theorem State.advance_cx (n : Nat) : (s.advance n).cx = s.cx := rfl
@[simp] theorem State.advance_sp (n : Nat) : (s.advance n).sp = s.sp := rfl
@[simp] theorem State.advance_pc (n : Nat) : (s.advance n).pc = s.pc + BitVec.ofNat 16 n := rfl
@[simp] theorem State.advance_rs (n : Nat) : (s.advance n).rs = s.rs := rfl
@[simp] theorem State.advance_rf (n : Nat) : (s.advance n).rf = s.rf := rfl
@[simp] theorem State.advance_ie (n : Nat) : (s.advance n).ie = s.ie := rfl
@[simp] theorem State.advance_inh (n : Nat) : (s.advance n).inh = s.inh := rfl
@[simp] theorem State.advance_sleep (n : Nat) : (s.advance n).sleep = s.sleep := rfl
@[simp] theorem State.advance_is (n : Nat) : (s.advance n).is = s.is := rfl
@[simp] theorem State.advance_mem (n : Nat) : (s.advance n).mem = s.mem := rfl
@[simp] theorem State.advance_env (n : Nat) : (s.advance n).env = s.env := rfl
@[simp] theorem State.advance_output (n : Nat) : (s.advance n).output = s.output := rfl
@[simp] theorem State.advance_draws (n : Nat) : (s.advance n).draws = s.draws := rfl
@[simp] theorem State.advance_stuck (n : Nat) : (s.advance n).stuck = s.stuck := rfl

/-! ### `jump` -/

@[simp] theorem State.jump_ax (a : Word) : (s.jump a).ax = s.ax := rfl
@[simp] theorem State.jump_bx (a : Word) : (s.jump a).bx = s.bx := rfl
@[simp] theorem State.jump_cx (a : Word) : (s.jump a).cx = s.cx := rfl
@[simp] theorem State.jump_sp (a : Word) : (s.jump a).sp = s.sp := rfl
@[simp] theorem State.jump_pc (a : Word) : (s.jump a).pc = a := rfl
@[simp] theorem State.jump_rs (a : Word) : (s.jump a).rs = s.rs := rfl
@[simp] theorem State.jump_rf (a : Word) : (s.jump a).rf = s.rf := rfl
@[simp] theorem State.jump_ie (a : Word) : (s.jump a).ie = s.ie := rfl
@[simp] theorem State.jump_inh (a : Word) : (s.jump a).inh = s.inh := rfl
@[simp] theorem State.jump_sleep (a : Word) : (s.jump a).sleep = s.sleep := rfl
@[simp] theorem State.jump_is (a : Word) : (s.jump a).is = s.is := rfl
@[simp] theorem State.jump_mem (a : Word) : (s.jump a).mem = s.mem := rfl
@[simp] theorem State.jump_env (a : Word) : (s.jump a).env = s.env := rfl
@[simp] theorem State.jump_output (a : Word) : (s.jump a).output = s.output := rfl
@[simp] theorem State.jump_draws (a : Word) : (s.jump a).draws = s.draws := rfl
@[simp] theorem State.jump_stuck (a : Word) : (s.jump a).stuck = s.stuck := rfl

/-! ### `writeByte` -/

@[simp] theorem State.writeByte_ax (a : Word) (b : Byte) : (s.writeByte a b).ax = s.ax := rfl
@[simp] theorem State.writeByte_bx (a : Word) (b : Byte) : (s.writeByte a b).bx = s.bx := rfl
@[simp] theorem State.writeByte_cx (a : Word) (b : Byte) : (s.writeByte a b).cx = s.cx := rfl
@[simp] theorem State.writeByte_sp (a : Word) (b : Byte) : (s.writeByte a b).sp = s.sp := rfl
@[simp] theorem State.writeByte_pc (a : Word) (b : Byte) : (s.writeByte a b).pc = s.pc := rfl
@[simp] theorem State.writeByte_rs (a : Word) (b : Byte) : (s.writeByte a b).rs = s.rs := rfl
@[simp] theorem State.writeByte_rf (a : Word) (b : Byte) : (s.writeByte a b).rf = s.rf := rfl
@[simp] theorem State.writeByte_ie (a : Word) (b : Byte) : (s.writeByte a b).ie = s.ie := rfl
@[simp] theorem State.writeByte_inh (a : Word) (b : Byte) : (s.writeByte a b).inh = s.inh := rfl
@[simp] theorem State.writeByte_sleep (a : Word) (b : Byte) : (s.writeByte a b).sleep = s.sleep := rfl
@[simp] theorem State.writeByte_is (a : Word) (b : Byte) : (s.writeByte a b).is = s.is := rfl
@[simp] theorem State.writeByte_mem (a : Word) (b : Byte) : (s.writeByte a b).mem = s.mem.write a.toNat b := rfl
@[simp] theorem State.writeByte_env (a : Word) (b : Byte) : (s.writeByte a b).env = s.env := rfl
@[simp] theorem State.writeByte_output (a : Word) (b : Byte) : (s.writeByte a b).output = s.output := rfl
@[simp] theorem State.writeByte_draws (a : Word) (b : Byte) : (s.writeByte a b).draws = s.draws := rfl
@[simp] theorem State.writeByte_stuck (a : Word) (b : Byte) : (s.writeByte a b).stuck = s.stuck := rfl

/-! ### `writeWord` -/

@[simp] theorem State.writeWord_ax (a v : Word) : (s.writeWord a v).ax = s.ax := rfl
@[simp] theorem State.writeWord_bx (a v : Word) : (s.writeWord a v).bx = s.bx := rfl
@[simp] theorem State.writeWord_cx (a v : Word) : (s.writeWord a v).cx = s.cx := rfl
@[simp] theorem State.writeWord_sp (a v : Word) : (s.writeWord a v).sp = s.sp := rfl
@[simp] theorem State.writeWord_pc (a v : Word) : (s.writeWord a v).pc = s.pc := rfl
@[simp] theorem State.writeWord_rs (a v : Word) : (s.writeWord a v).rs = s.rs := rfl
@[simp] theorem State.writeWord_rf (a v : Word) : (s.writeWord a v).rf = s.rf := rfl
@[simp] theorem State.writeWord_ie (a v : Word) : (s.writeWord a v).ie = s.ie := rfl
@[simp] theorem State.writeWord_inh (a v : Word) : (s.writeWord a v).inh = s.inh := rfl
@[simp] theorem State.writeWord_sleep (a v : Word) : (s.writeWord a v).sleep = s.sleep := rfl
@[simp] theorem State.writeWord_is (a v : Word) : (s.writeWord a v).is = s.is := rfl
theorem State.writeWord_mem (a v : Word) : (s.writeWord a v).mem = ((s.writeByte a (hiByte v)).writeByte (a + 1#16) (loByte v)).mem := rfl
@[simp] theorem State.writeWord_env (a v : Word) : (s.writeWord a v).env = s.env := rfl
@[simp] theorem State.writeWord_output (a v : Word) : (s.writeWord a v).output = s.output := rfl
@[simp] theorem State.writeWord_draws (a v : Word) : (s.writeWord a v).draws = s.draws := rfl
@[simp] theorem State.writeWord_stuck (a v : Word) : (s.writeWord a v).stuck = s.stuck := rfl

/-! ### `push16` -/

@[simp] theorem State.push16_ax (v : Word) : (s.push16 v).ax = s.ax := rfl
@[simp] theorem State.push16_bx (v : Word) : (s.push16 v).bx = s.bx := rfl
@[simp] theorem State.push16_cx (v : Word) : (s.push16 v).cx = s.cx := rfl
@[simp] theorem State.push16_sp (v : Word) : (s.push16 v).sp = s.sp - 2#16 := by simp [State.push16, BitVec.sub_sub]
@[simp] theorem State.push16_pc (v : Word) : (s.push16 v).pc = s.pc := rfl
@[simp] theorem State.push16_rs (v : Word) : (s.push16 v).rs = s.rs := rfl
@[simp] theorem State.push16_rf (v : Word) : (s.push16 v).rf = s.rf := rfl
@[simp] theorem State.push16_ie (v : Word) : (s.push16 v).ie = s.ie := rfl
@[simp] theorem State.push16_inh (v : Word) : (s.push16 v).inh = s.inh := rfl
@[simp] theorem State.push16_sleep (v : Word) : (s.push16 v).sleep = s.sleep := rfl
@[simp] theorem State.push16_is (v : Word) : (s.push16 v).is = s.is := rfl
theorem State.push16_mem (v : Word) : (s.push16 v).mem = ((s.writeByte s.sp (loByte v)).writeByte (s.sp - 1#16) (hiByte v)).mem := rfl
@[simp] theorem State.push16_env (v : Word) : (s.push16 v).env = s.env := rfl
@[simp] theorem State.push16_output (v : Word) : (s.push16 v).output = s.output := rfl
@[simp] theorem State.push16_draws (v : Word) : (s.push16 v).draws = s.draws := rfl
@[simp] theorem State.push16_stuck (v : Word) : (s.push16 v).stuck = s.stuck := rfl

/-! ### `emit` -/

@[simp] theorem State.emit_ax (e : OutputEvent) : (s.emit e).ax = s.ax := rfl
@[simp] theorem State.emit_bx (e : OutputEvent) : (s.emit e).bx = s.bx := rfl
@[simp] theorem State.emit_cx (e : OutputEvent) : (s.emit e).cx = s.cx := rfl
@[simp] theorem State.emit_sp (e : OutputEvent) : (s.emit e).sp = s.sp := rfl
@[simp] theorem State.emit_pc (e : OutputEvent) : (s.emit e).pc = s.pc := rfl
@[simp] theorem State.emit_rs (e : OutputEvent) : (s.emit e).rs = s.rs := rfl
@[simp] theorem State.emit_rf (e : OutputEvent) : (s.emit e).rf = s.rf := rfl
@[simp] theorem State.emit_ie (e : OutputEvent) : (s.emit e).ie = s.ie := rfl
@[simp] theorem State.emit_inh (e : OutputEvent) : (s.emit e).inh = s.inh := rfl
@[simp] theorem State.emit_sleep (e : OutputEvent) : (s.emit e).sleep = s.sleep := rfl
@[simp] theorem State.emit_is (e : OutputEvent) : (s.emit e).is = s.is := rfl
@[simp] theorem State.emit_mem (e : OutputEvent) : (s.emit e).mem = s.mem := rfl
@[simp] theorem State.emit_env (e : OutputEvent) : (s.emit e).env = s.env := rfl
@[simp] theorem State.emit_output (e : OutputEvent) : (s.emit e).output = s.output ++ [e] := rfl
@[simp] theorem State.emit_draws (e : OutputEvent) : (s.emit e).draws = s.draws := rfl
@[simp] theorem State.emit_stuck (e : OutputEvent) : (s.emit e).stuck = s.stuck := rfl

/-! ### `drawFlags` -/

@[simp] theorem State.drawFlags_ax : (s.drawFlags).ax = s.ax := rfl
@[simp] theorem State.drawFlags_bx : (s.drawFlags).bx = s.bx := rfl
@[simp] theorem State.drawFlags_cx : (s.drawFlags).cx = s.cx := rfl
@[simp] theorem State.drawFlags_sp : (s.drawFlags).sp = s.sp := rfl
@[simp] theorem State.drawFlags_pc : (s.drawFlags).pc = s.pc := rfl
@[simp] theorem State.drawFlags_rs : (s.drawFlags).rs = drawnFlags s.draws := rfl
@[simp] theorem State.drawFlags_rf : (s.drawFlags).rf = s.rf := rfl
@[simp] theorem State.drawFlags_ie : (s.drawFlags).ie = s.ie := rfl
@[simp] theorem State.drawFlags_inh : (s.drawFlags).inh = s.inh := rfl
@[simp] theorem State.drawFlags_sleep : (s.drawFlags).sleep = s.sleep := rfl
@[simp] theorem State.drawFlags_is : (s.drawFlags).is = s.is := rfl
@[simp] theorem State.drawFlags_mem : (s.drawFlags).mem = s.mem := rfl
@[simp] theorem State.drawFlags_env : (s.drawFlags).env = s.env := rfl
@[simp] theorem State.drawFlags_output : (s.drawFlags).output = s.output := rfl
@[simp] theorem State.drawFlags_draws : (s.drawFlags).draws = s.draws + 3 := rfl
@[simp] theorem State.drawFlags_stuck : (s.drawFlags).stuck = s.stuck := rfl

/-! ### `carryDrawZS` -/

@[simp] theorem State.carryDrawZS_ax (c : Bool) : (s.carryDrawZS c).ax = s.ax := rfl
@[simp] theorem State.carryDrawZS_bx (c : Bool) : (s.carryDrawZS c).bx = s.bx := rfl
@[simp] theorem State.carryDrawZS_cx (c : Bool) : (s.carryDrawZS c).cx = s.cx := rfl
@[simp] theorem State.carryDrawZS_sp (c : Bool) : (s.carryDrawZS c).sp = s.sp := rfl
@[simp] theorem State.carryDrawZS_pc (c : Bool) : (s.carryDrawZS c).pc = s.pc := rfl
@[simp] theorem State.carryDrawZS_rs (c : Bool) : (s.carryDrawZS c).rs = ⟨Config.drawFlag s.draws, c, Config.drawFlag (s.draws + 1)⟩ := rfl
@[simp] theorem State.carryDrawZS_rf (c : Bool) : (s.carryDrawZS c).rf = s.rf := rfl
@[simp] theorem State.carryDrawZS_ie (c : Bool) : (s.carryDrawZS c).ie = s.ie := rfl
@[simp] theorem State.carryDrawZS_inh (c : Bool) : (s.carryDrawZS c).inh = s.inh := rfl
@[simp] theorem State.carryDrawZS_sleep (c : Bool) : (s.carryDrawZS c).sleep = s.sleep := rfl
@[simp] theorem State.carryDrawZS_is (c : Bool) : (s.carryDrawZS c).is = s.is := rfl
@[simp] theorem State.carryDrawZS_mem (c : Bool) : (s.carryDrawZS c).mem = s.mem := rfl
@[simp] theorem State.carryDrawZS_env (c : Bool) : (s.carryDrawZS c).env = s.env := rfl
@[simp] theorem State.carryDrawZS_output (c : Bool) : (s.carryDrawZS c).output = s.output := rfl
@[simp] theorem State.carryDrawZS_draws (c : Bool) : (s.carryDrawZS c).draws = s.draws + 2 := rfl
@[simp] theorem State.carryDrawZS_stuck (c : Bool) : (s.carryDrawZS c).stuck = s.stuck := rfl

/-! ### `compareSigned` -/

@[simp] theorem State.compareSigned_ax : (s.compareSigned).ax = s.ax := rfl
@[simp] theorem State.compareSigned_bx : (s.compareSigned).bx = s.bx := rfl
@[simp] theorem State.compareSigned_cx : (s.compareSigned).cx = s.cx := rfl
@[simp] theorem State.compareSigned_sp : (s.compareSigned).sp = s.sp := rfl
@[simp] theorem State.compareSigned_pc : (s.compareSigned).pc = s.pc := rfl
@[simp] theorem State.compareSigned_rs : (s.compareSigned).rs = ⟨s.ax == s.bx, s.rs.c, s.ax.slt s.bx⟩ := rfl
@[simp] theorem State.compareSigned_rf : (s.compareSigned).rf = s.rf := rfl
@[simp] theorem State.compareSigned_ie : (s.compareSigned).ie = s.ie := rfl
@[simp] theorem State.compareSigned_inh : (s.compareSigned).inh = s.inh := rfl
@[simp] theorem State.compareSigned_sleep : (s.compareSigned).sleep = s.sleep := rfl
@[simp] theorem State.compareSigned_is : (s.compareSigned).is = s.is := rfl
@[simp] theorem State.compareSigned_mem : (s.compareSigned).mem = s.mem := rfl
@[simp] theorem State.compareSigned_env : (s.compareSigned).env = s.env := rfl
@[simp] theorem State.compareSigned_output : (s.compareSigned).output = s.output := rfl
@[simp] theorem State.compareSigned_draws : (s.compareSigned).draws = s.draws := rfl
@[simp] theorem State.compareSigned_stuck : (s.compareSigned).stuck = s.stuck := rfl

/-! ### `compareUnsigned` -/

@[simp] theorem State.compareUnsigned_ax : (s.compareUnsigned).ax = s.ax := rfl
@[simp] theorem State.compareUnsigned_bx : (s.compareUnsigned).bx = s.bx := rfl
@[simp] theorem State.compareUnsigned_cx : (s.compareUnsigned).cx = s.cx := rfl
@[simp] theorem State.compareUnsigned_sp : (s.compareUnsigned).sp = s.sp := rfl
@[simp] theorem State.compareUnsigned_pc : (s.compareUnsigned).pc = s.pc := rfl
@[simp] theorem State.compareUnsigned_rs : (s.compareUnsigned).rs = ⟨s.ax == s.bx, s.rs.c, s.ax.ult s.bx⟩ := rfl
@[simp] theorem State.compareUnsigned_rf : (s.compareUnsigned).rf = s.rf := rfl
@[simp] theorem State.compareUnsigned_ie : (s.compareUnsigned).ie = s.ie := rfl
@[simp] theorem State.compareUnsigned_inh : (s.compareUnsigned).inh = s.inh := rfl
@[simp] theorem State.compareUnsigned_sleep : (s.compareUnsigned).sleep = s.sleep := rfl
@[simp] theorem State.compareUnsigned_is : (s.compareUnsigned).is = s.is := rfl
@[simp] theorem State.compareUnsigned_mem : (s.compareUnsigned).mem = s.mem := rfl
@[simp] theorem State.compareUnsigned_env : (s.compareUnsigned).env = s.env := rfl
@[simp] theorem State.compareUnsigned_output : (s.compareUnsigned).output = s.output := rfl
@[simp] theorem State.compareUnsigned_draws : (s.compareUnsigned).draws = s.draws := rfl
@[simp] theorem State.compareUnsigned_stuck : (s.compareUnsigned).stuck = s.stuck := rfl

/-! ### `testInterruptFlags` -/

@[simp] theorem State.testInterruptFlags_ax (k : Byte) : (s.testInterruptFlags k).ax = s.ax := rfl
@[simp] theorem State.testInterruptFlags_bx (k : Byte) : (s.testInterruptFlags k).bx = s.bx := rfl
@[simp] theorem State.testInterruptFlags_cx (k : Byte) : (s.testInterruptFlags k).cx = s.cx := rfl
@[simp] theorem State.testInterruptFlags_sp (k : Byte) : (s.testInterruptFlags k).sp = s.sp := rfl
@[simp] theorem State.testInterruptFlags_pc (k : Byte) : (s.testInterruptFlags k).pc = s.pc := rfl
@[simp] theorem State.testInterruptFlags_rs (k : Byte) : (s.testInterruptFlags k).rs = ⟨s.rf &&& k != 0#8, s.rs.c, s.rs.s⟩ := rfl
@[simp] theorem State.testInterruptFlags_rf (k : Byte) : (s.testInterruptFlags k).rf = s.rf := rfl
@[simp] theorem State.testInterruptFlags_ie (k : Byte) : (s.testInterruptFlags k).ie = s.ie := rfl
@[simp] theorem State.testInterruptFlags_inh (k : Byte) : (s.testInterruptFlags k).inh = s.inh := rfl
@[simp] theorem State.testInterruptFlags_sleep (k : Byte) : (s.testInterruptFlags k).sleep = s.sleep := rfl
@[simp] theorem State.testInterruptFlags_is (k : Byte) : (s.testInterruptFlags k).is = s.is := rfl
@[simp] theorem State.testInterruptFlags_mem (k : Byte) : (s.testInterruptFlags k).mem = s.mem := rfl
@[simp] theorem State.testInterruptFlags_env (k : Byte) : (s.testInterruptFlags k).env = s.env := rfl
@[simp] theorem State.testInterruptFlags_output (k : Byte) : (s.testInterruptFlags k).output = s.output := rfl
@[simp] theorem State.testInterruptFlags_draws (k : Byte) : (s.testInterruptFlags k).draws = s.draws := rfl
@[simp] theorem State.testInterruptFlags_stuck (k : Byte) : (s.testInterruptFlags k).stuck = s.stuck := rfl

/-! ### `clearFlags` -/

@[simp] theorem State.clearFlags_ax (z c v : Bool) : (s.clearFlags z c v).ax = s.ax := rfl
@[simp] theorem State.clearFlags_bx (z c v : Bool) : (s.clearFlags z c v).bx = s.bx := rfl
@[simp] theorem State.clearFlags_cx (z c v : Bool) : (s.clearFlags z c v).cx = s.cx := rfl
@[simp] theorem State.clearFlags_sp (z c v : Bool) : (s.clearFlags z c v).sp = s.sp := rfl
@[simp] theorem State.clearFlags_pc (z c v : Bool) : (s.clearFlags z c v).pc = s.pc := rfl
@[simp] theorem State.clearFlags_rs (z c v : Bool) : (s.clearFlags z c v).rs = ⟨s.rs.z && !z, s.rs.c && !c, s.rs.s && !v⟩ := rfl
@[simp] theorem State.clearFlags_rf (z c v : Bool) : (s.clearFlags z c v).rf = s.rf := rfl
@[simp] theorem State.clearFlags_ie (z c v : Bool) : (s.clearFlags z c v).ie = s.ie := rfl
@[simp] theorem State.clearFlags_inh (z c v : Bool) : (s.clearFlags z c v).inh = s.inh := rfl
@[simp] theorem State.clearFlags_sleep (z c v : Bool) : (s.clearFlags z c v).sleep = s.sleep := rfl
@[simp] theorem State.clearFlags_is (z c v : Bool) : (s.clearFlags z c v).is = s.is := rfl
@[simp] theorem State.clearFlags_mem (z c v : Bool) : (s.clearFlags z c v).mem = s.mem := rfl
@[simp] theorem State.clearFlags_env (z c v : Bool) : (s.clearFlags z c v).env = s.env := rfl
@[simp] theorem State.clearFlags_output (z c v : Bool) : (s.clearFlags z c v).output = s.output := rfl
@[simp] theorem State.clearFlags_draws (z c v : Bool) : (s.clearFlags z c v).draws = s.draws := rfl
@[simp] theorem State.clearFlags_stuck (z c v : Bool) : (s.clearFlags z c v).stuck = s.stuck := rfl

/-! ### `arrive` -/

@[simp] theorem State.arrive_ax : (s.arrive).ax = s.ax := rfl
@[simp] theorem State.arrive_bx : (s.arrive).bx = s.bx := rfl
@[simp] theorem State.arrive_cx : (s.arrive).cx = s.cx := rfl
@[simp] theorem State.arrive_sp : (s.arrive).sp = s.sp := rfl
@[simp] theorem State.arrive_pc : (s.arrive).pc = s.pc := rfl
@[simp] theorem State.arrive_rs : (s.arrive).rs = s.rs := rfl
@[simp] theorem State.arrive_rf : (s.arrive).rf = s.rf ||| s.event := rfl
@[simp] theorem State.arrive_ie : (s.arrive).ie = s.ie := rfl
@[simp] theorem State.arrive_inh : (s.arrive).inh = s.inh := rfl
@[simp] theorem State.arrive_sleep : (s.arrive).sleep = s.sleep := rfl
@[simp] theorem State.arrive_is : (s.arrive).is = s.is := rfl
@[simp] theorem State.arrive_mem : (s.arrive).mem = s.mem := rfl
@[simp] theorem State.arrive_env : (s.arrive).env = s.env.tail := rfl
@[simp] theorem State.arrive_output : (s.arrive).output = s.output := rfl
@[simp] theorem State.arrive_draws : (s.arrive).draws = s.draws := rfl
@[simp] theorem State.arrive_stuck : (s.arrive).stuck = s.stuck := rfl

/-! ### `interruptEntry` -/

@[simp] theorem State.interruptEntry_ax (ret : Word) : (s.interruptEntry ret).ax = s.ax := rfl
@[simp] theorem State.interruptEntry_bx (ret : Word) : (s.interruptEntry ret).bx = s.bx := rfl
@[simp] theorem State.interruptEntry_cx (ret : Word) : (s.interruptEntry ret).cx = s.cx := rfl
@[simp] theorem State.interruptEntry_sp (ret : Word) : (s.interruptEntry ret).sp = s.sp := rfl
@[simp] theorem State.interruptEntry_pc (ret : Word) : (s.interruptEntry ret).pc = Config.intVector := rfl
@[simp] theorem State.interruptEntry_rs (ret : Word) : (s.interruptEntry ret).rs = s.rs := rfl
@[simp] theorem State.interruptEntry_rf (ret : Word) : (s.interruptEntry ret).rf = s.rf := rfl
@[simp] theorem State.interruptEntry_ie (ret : Word) : (s.interruptEntry ret).ie = s.ie := rfl
@[simp] theorem State.interruptEntry_inh (ret : Word) : (s.interruptEntry ret).inh = true := rfl
@[simp] theorem State.interruptEntry_sleep (ret : Word) : (s.interruptEntry ret).sleep = false := rfl
@[simp] theorem State.interruptEntry_is (ret : Word) : (s.interruptEntry ret).is = ⟨s.ax, s.bx, s.cx, s.sp, ret, s.rs, true⟩ := rfl
@[simp] theorem State.interruptEntry_mem (ret : Word) : (s.interruptEntry ret).mem = s.mem := rfl
@[simp] theorem State.interruptEntry_env (ret : Word) : (s.interruptEntry ret).env = s.env := rfl
@[simp] theorem State.interruptEntry_output (ret : Word) : (s.interruptEntry ret).output = s.output := rfl
@[simp] theorem State.interruptEntry_draws (ret : Word) : (s.interruptEntry ret).draws = s.draws := rfl
@[simp] theorem State.interruptEntry_stuck (ret : Word) : (s.interruptEntry ret).stuck = s.stuck := rfl

/-! ### `interruptReturn` -/

@[simp] theorem State.interruptReturn_ax : (s.interruptReturn).ax = s.is.ax := rfl
@[simp] theorem State.interruptReturn_bx : (s.interruptReturn).bx = s.is.bx := rfl
@[simp] theorem State.interruptReturn_cx : (s.interruptReturn).cx = s.is.cx := rfl
@[simp] theorem State.interruptReturn_sp : (s.interruptReturn).sp = s.is.sp := rfl
@[simp] theorem State.interruptReturn_pc : (s.interruptReturn).pc = s.is.pc := rfl
@[simp] theorem State.interruptReturn_rs : (s.interruptReturn).rs = s.is.rs := rfl
@[simp] theorem State.interruptReturn_rf : (s.interruptReturn).rf = 0#8 := rfl
@[simp] theorem State.interruptReturn_ie : (s.interruptReturn).ie = s.ie := rfl
@[simp] theorem State.interruptReturn_inh : (s.interruptReturn).inh = false := rfl
@[simp] theorem State.interruptReturn_sleep : (s.interruptReturn).sleep = s.sleep := rfl
@[simp] theorem State.interruptReturn_is : (s.interruptReturn).is = s.is := rfl
@[simp] theorem State.interruptReturn_mem : (s.interruptReturn).mem = s.mem := rfl
@[simp] theorem State.interruptReturn_env : (s.interruptReturn).env = s.env := rfl
@[simp] theorem State.interruptReturn_output : (s.interruptReturn).output = s.output := rfl
@[simp] theorem State.interruptReturn_draws : (s.interruptReturn).draws = s.draws := rfl
@[simp] theorem State.interruptReturn_stuck : (s.interruptReturn).stuck = s.stuck := rfl

/-! ### `resetTo` -/

@[simp] theorem State.resetTo_ax (u : ResetValues) : (s.resetTo u).ax = u.ax := rfl
@[simp] theorem State.resetTo_bx (u : ResetValues) : (s.resetTo u).bx = u.bx := rfl
@[simp] theorem State.resetTo_cx (u : ResetValues) : (s.resetTo u).cx = u.cx := rfl
@[simp] theorem State.resetTo_sp (u : ResetValues) : (s.resetTo u).sp = u.sp := rfl
@[simp] theorem State.resetTo_pc (u : ResetValues) : (s.resetTo u).pc = Config.resetPc := rfl
@[simp] theorem State.resetTo_rs (u : ResetValues) : (s.resetTo u).rs = u.rs := rfl
@[simp] theorem State.resetTo_rf (u : ResetValues) : (s.resetTo u).rf = u.rf := rfl
@[simp] theorem State.resetTo_ie (u : ResetValues) : (s.resetTo u).ie = u.ie := rfl
@[simp] theorem State.resetTo_inh (u : ResetValues) : (s.resetTo u).inh = false := rfl
@[simp] theorem State.resetTo_sleep (u : ResetValues) : (s.resetTo u).sleep = false := rfl
@[simp] theorem State.resetTo_is (u : ResetValues) : (s.resetTo u).is = ⟨u.isAx, u.isBx, u.isCx, u.isSp, u.isPc, u.isRs, false⟩ := rfl
@[simp] theorem State.resetTo_mem (u : ResetValues) : (s.resetTo u).mem = s.mem := rfl
@[simp] theorem State.resetTo_env (u : ResetValues) : (s.resetTo u).env = s.env := rfl
@[simp] theorem State.resetTo_output (u : ResetValues) : (s.resetTo u).output = s.output := rfl
@[simp] theorem State.resetTo_draws (u : ResetValues) : (s.resetTo u).draws = s.draws := rfl
@[simp] theorem State.resetTo_stuck (u : ResetValues) : (s.resetTo u).stuck = s.stuck := rfl

/-! ### `jumpIf` -/

@[simp] theorem State.jumpIf_ax (c : Bool) (a : Word) (n : Nat) : (s.jumpIf c a n).ax = s.ax := by cases c <;> rfl
@[simp] theorem State.jumpIf_bx (c : Bool) (a : Word) (n : Nat) : (s.jumpIf c a n).bx = s.bx := by cases c <;> rfl
@[simp] theorem State.jumpIf_cx (c : Bool) (a : Word) (n : Nat) : (s.jumpIf c a n).cx = s.cx := by cases c <;> rfl
@[simp] theorem State.jumpIf_sp (c : Bool) (a : Word) (n : Nat) : (s.jumpIf c a n).sp = s.sp := by cases c <;> rfl
@[simp] theorem State.jumpIf_pc (c : Bool) (a : Word) (n : Nat) :
    (s.jumpIf c a n).pc = if c then a else s.pc + BitVec.ofNat 16 n := by cases c <;> rfl
@[simp] theorem State.jumpIf_rs (c : Bool) (a : Word) (n : Nat) : (s.jumpIf c a n).rs = s.rs := by cases c <;> rfl
@[simp] theorem State.jumpIf_rf (c : Bool) (a : Word) (n : Nat) : (s.jumpIf c a n).rf = s.rf := by cases c <;> rfl
@[simp] theorem State.jumpIf_ie (c : Bool) (a : Word) (n : Nat) : (s.jumpIf c a n).ie = s.ie := by cases c <;> rfl
@[simp] theorem State.jumpIf_inh (c : Bool) (a : Word) (n : Nat) : (s.jumpIf c a n).inh = s.inh := by cases c <;> rfl
@[simp] theorem State.jumpIf_sleep (c : Bool) (a : Word) (n : Nat) : (s.jumpIf c a n).sleep = s.sleep := by cases c <;> rfl
@[simp] theorem State.jumpIf_is (c : Bool) (a : Word) (n : Nat) : (s.jumpIf c a n).is = s.is := by cases c <;> rfl
@[simp] theorem State.jumpIf_mem (c : Bool) (a : Word) (n : Nat) : (s.jumpIf c a n).mem = s.mem := by cases c <;> rfl
@[simp] theorem State.jumpIf_env (c : Bool) (a : Word) (n : Nat) : (s.jumpIf c a n).env = s.env := by cases c <;> rfl
@[simp] theorem State.jumpIf_output (c : Bool) (a : Word) (n : Nat) : (s.jumpIf c a n).output = s.output := by cases c <;> rfl
@[simp] theorem State.jumpIf_draws (c : Bool) (a : Word) (n : Nat) : (s.jumpIf c a n).draws = s.draws := by cases c <;> rfl
@[simp] theorem State.jumpIf_stuck (c : Bool) (a : Word) (n : Nat) : (s.jumpIf c a n).stuck = s.stuck := by cases c <;> rfl

/-! ### The register file: reading after an update -/

@[simp] theorem State.get_set_same (r : Reg) (v : Word) : (s.set r v).get r = v := by cases r <;> rfl

theorem State.get_set_other (r q : Reg) (v : Word) (h : q ≠ r) : (s.set r v).get q = s.get q := by
  cases r <;> cases q <;> first | rfl | exact absurd rfl h

theorem State.get_set (r q : Reg) (v : Word) : (s.set r v).get q = if q = r then v else s.get q := by
  cases r <;> cases q <;> rfl

@[simp] theorem State.set_get (r : Reg) : s.set r (s.get r) = s := by cases r <;> rfl

/-- `get` looks at the four general registers alone. -/
theorem State.get_congr {s t : State} (ha : t.ax = s.ax) (hb : t.bx = s.bx) (hc : t.cx = s.cx) (hs : t.sp = s.sp)
    (r : Reg) : t.get r = s.get r := by cases r <;> assumption

@[simp] theorem State.get_advance (n : Nat) (r : Reg) : (s.advance n).get r = s.get r := by cases r <;> rfl
@[simp] theorem State.get_jump (a : Word) (r : Reg) : (s.jump a).get r = s.get r := by cases r <;> rfl
@[simp] theorem State.get_writeByte (a : Word) (b : Byte) (r : Reg) : (s.writeByte a b).get r = s.get r := by cases r <;> rfl
@[simp] theorem State.get_writeWord (a v : Word) (r : Reg) : (s.writeWord a v).get r = s.get r := by cases r <;> rfl
@[simp] theorem State.get_emit (e : OutputEvent) (r : Reg) : (s.emit e).get r = s.get r := by cases r <;> rfl
@[simp] theorem State.get_drawFlags (r : Reg) : (s.drawFlags).get r = s.get r := by cases r <;> rfl
@[simp] theorem State.get_carryDrawZS (c : Bool) (r : Reg) : (s.carryDrawZS c).get r = s.get r := by cases r <;> rfl
@[simp] theorem State.get_compareSigned (r : Reg) : (s.compareSigned).get r = s.get r := by cases r <;> rfl
@[simp] theorem State.get_compareUnsigned (r : Reg) : (s.compareUnsigned).get r = s.get r := by cases r <;> rfl
@[simp] theorem State.get_testInterruptFlags (k : Byte) (r : Reg) : (s.testInterruptFlags k).get r = s.get r := by cases r <;> rfl
@[simp] theorem State.get_clearFlags (z c v : Bool) (r : Reg) : (s.clearFlags z c v).get r = s.get r := by cases r <;> rfl
@[simp] theorem State.get_arrive (r : Reg) : (s.arrive).get r = s.get r := by cases r <;> rfl
@[simp] theorem State.get_interruptEntry (ret : Word) (r : Reg) : (s.interruptEntry ret).get r = s.get r := by cases r <;> rfl

end Sys2Proof.Machine
end

