-- ==== Sys2Proof/Laws/Memory.lean ====
section
/-! SUPPORT. The laws of memory: reading after writing, and the canonical form, which every memory operation keeps
(spec/20_memory.md R63). -/

namespace Sys2Proof.Machine

theorem Memory.read_write (m : Memory) (a b : Nat) (v : Byte) :
    (m.write a v).read b = if b = a then some v else m.read b := by
  induction m with
  | nil => simp [Memory.write, Memory.read]
  | cons e rest ih =>
    obtain ⟨k, w⟩ := e
    rcases Nat.lt_trichotomy a k with h | h | h
    · simp [Memory.write, Memory.read, h]
    · subst h
      by_cases hb : b = a <;> simp [Memory.write, Memory.read, hb]
    · have h1 : ¬ a < k := by omega
      have h2 : a ≠ k := by omega
      by_cases hb : b = k
      · subst hb
        have h3 : b ≠ a := by omega
        simp [Memory.write, Memory.read, h1, h2, h3]
      · simp [Memory.write, Memory.read, h1, h2, hb, ih]

theorem Memory.risesFrom_cons (low : Option Nat) (k : Nat) (v : Byte) (rest : Memory) :
    Memory.risesFrom low ((k, v) :: rest) = true ↔
      (∀ l, low = some l → l < k) ∧ k < 65536 ∧ Memory.risesFrom (some k) rest = true := by
  cases low <;> simp [Memory.risesFrom, and_assoc]

theorem Memory.risesFrom_write (low : Option Nat) (m : Memory) (a : Nat) (v : Byte)
    (h : Memory.risesFrom low m = true) (hl : ∀ l, low = some l → l < a) (ha : a < 65536) :
    Memory.risesFrom low (m.write a v) = true := by
  induction m generalizing low with
  | nil => exact (Memory.risesFrom_cons ..).2 ⟨hl, ha, rfl⟩
  | cons e rest ih =>
    obtain ⟨k, w⟩ := e
    obtain ⟨h1, h2, h3⟩ := (Memory.risesFrom_cons ..).1 h
    by_cases hk : a < k
    · simp only [Memory.write, hk, if_true]
      refine (Memory.risesFrom_cons ..).2 ⟨hl, ha, (Memory.risesFrom_cons ..).2 ⟨?_, h2, h3⟩⟩
      intro l hl'
      injection hl' with hl'
      omega
    · by_cases he : a = k
      · subst he
        simp only [Memory.write, hk, if_false, if_true]
        exact (Memory.risesFrom_cons ..).2 ⟨h1, h2, h3⟩
      · simp only [Memory.write, hk, he, if_false]
        refine (Memory.risesFrom_cons ..).2 ⟨h1, h2, ih _ h3 ?_⟩
        intro l hl'
        injection hl' with hl'
        omega

/-- A write keeps the canonical form. -/
theorem Memory.wf_write (m : Memory) (a : Word) (v : Byte) (h : m.wf = true) : (m.write a.toNat v).wf = true :=
  Memory.risesFrom_write none m a.toNat v h (by simp) a.isLt

/-- A write of a byte, then a read (R63). -/
theorem State.readByte_writeByte (s : State) (a b : Word) (v : Byte) :
    (s.writeByte a v).readByte b = if b = a then some v else s.readByte b := by
  simp [State.readByte, Memory.read_write, BitVec.toNat_inj]

/-- `readByte` looks at memory alone. -/
theorem State.readByte_congr {s t : State} (h : t.mem = s.mem) (a : Word) : t.readByte a = s.readByte a := by
  simp [State.readByte, h]

/-- Two writes at different places, then a read. -/
theorem State.readByte_writeWord (s : State) (a v b : Word) :
    (s.writeWord a v).readByte b =
      if b = a + 1#16 then some (loByte v) else if b = a then some (hiByte v) else s.readByte b := by
  simp [State.writeWord, State.readByte_writeByte]

/-- A push, then a read (R74): low byte at the old SP, high byte below it. -/
theorem State.readByte_push16 (s : State) (v b : Word) :
    (s.push16 v).readByte b =
      if b = s.sp - 1#16 then some (hiByte v) else if b = s.sp then some (loByte v) else s.readByte b := by
  rw [State.readByte_congr (s.push16_mem v), State.readByte_writeByte, State.readByte_writeByte]

theorem State.writeByte_wf (s : State) (a : Word) (b : Byte) (h : s.mem.wf = true) : (s.writeByte a b).mem.wf = true :=
  Memory.wf_write s.mem a b h

theorem State.push16_wf (s : State) (v : Word) (h : s.mem.wf = true) : (s.push16 v).mem.wf = true :=
  State.writeByte_wf _ _ _ (State.writeByte_wf s _ _ h)

theorem State.writeWord_wf (s : State) (a v : Word) (h : s.mem.wf = true) : (s.writeWord a v).mem.wf = true :=
  State.writeByte_wf _ _ _ (State.writeByte_wf s _ _ h)

theorem State.writeBytes_wf (s : State) (a : Word) (bs : List Byte) (h : s.mem.wf = true) :
    (s.writeBytes a bs).mem.wf = true := by
  induction bs generalizing s a with
  | nil => exact h
  | cons b bs ih => exact ih _ _ (s.writeByte_wf a b h)

/-- The memory of the reset state has the canonical form. -/
theorem State.reset_wf : State.reset.mem.wf = true := rfl

end Sys2Proof.Machine
end

