-- ==== Sys2Proof/Laws/Ops.lean ====
section
/-! SUPPORT. For each shared operation, once, everything it can do. -/

namespace Sys2Proof.Machine

/-! ### Reading memory -/

@[simp] theorem State.withByte_some {s : State} {a : Word} {b : Byte} (h : s.readByte a = some b)
    (k : Byte → Result) : s.withByte a k = k b := by simp [State.withByte, h]

@[simp] theorem State.withByte_none {s : State} {a : Word} (h : s.readByte a = none) (k : Byte → Result) :
    s.withByte a k = .fault (.unwrittenByte a) := by simp [State.withByte, h]

/-- A read goes on only with the byte that is there (R63). -/
theorem State.withByte_next {s t : State} {a : Word} {k : Byte → Result} (h : s.withByte a k = .next t) :
    ∃ b, s.readByte a = some b ∧ k b = .next t := by
  cases hb : s.readByte a with
  | none => simp [hb] at h
  | some b => exact ⟨b, rfl, by simpa [hb] using h⟩

/-- A two-byte read goes on only with the two bytes that are there, the first the high one (R62, R63). -/
theorem State.withWord_next {s t : State} {a : Word} {k : Word → Result} (h : s.withWord a k = .next t) :
    ∃ hb lb, s.readByte a = some hb ∧ s.readByte (a + 1#16) = some lb ∧ k (joinBytes hb lb) = .next t := by
  obtain ⟨hb, h1, h⟩ := State.withByte_next h
  obtain ⟨lb, h2, h⟩ := State.withByte_next h
  exact ⟨hb, lb, h1, h2, h⟩

theorem State.withWord_some {s : State} {a : Word} {hb lb : Byte} (h1 : s.readByte a = some hb)
    (h2 : s.readByte (a + 1#16) = some lb) (k : Word → Result) : s.withWord a k = k (joinBytes hb lb) := by
  simp [State.withWord, h1, h2]

/-- `Pop16` with both bytes there: SP moves up by two, the word is high byte then low byte (R75). -/
theorem State.pop16_some {s : State} {hb lb : Byte} (h1 : s.readByte (s.sp + 1#16) = some hb)
    (h2 : s.readByte (s.sp + 2#16) = some lb) (k : Word → State → Result) :
    s.pop16 k = k (joinBytes hb lb) { s with sp := s.sp + 2#16 } := by
  have e : s.sp + 1#16 + 1#16 = s.sp + 2#16 := by rw [BitVec.add_assoc]; rfl
  have h1' : ({ s with sp := s.sp + 1#16 } : State).readByte (s.sp + 1#16) = some hb := h1
  have h2' : ({ s with sp := s.sp + 1#16 + 1#16 } : State).readByte (s.sp + 1#16 + 1#16) = some lb := by rw [e]; exact h2
  simp only [State.pop16]
  rw [State.withByte_some h1', State.withByte_some h2', e]

/-- `Pop16` goes on only with the two bytes above SP (R75). -/
theorem State.pop16_next {s t : State} {k : Word → State → Result} (h : s.pop16 k = .next t) :
    ∃ hb lb, s.readByte (s.sp + 1#16) = some hb ∧ s.readByte (s.sp + 2#16) = some lb ∧
      k (joinBytes hb lb) { s with sp := s.sp + 2#16 } = .next t := by
  have e : s.sp + 1#16 + 1#16 = s.sp + 2#16 := by rw [BitVec.add_assoc]; rfl
  have h0 := h
  simp only [State.pop16] at h0
  obtain ⟨hb, h1, h0⟩ := State.withByte_next h0
  obtain ⟨lb, h2, h0⟩ := State.withByte_next h0
  have h1' : s.readByte (s.sp + 1#16) = some hb := h1
  have h2' : s.readByte (s.sp + 2#16) = some lb := by rw [← e]; exact h2
  exact ⟨hb, lb, h1', h2', by rw [State.pop16_some h1' h2'] at h; exact h⟩

/-- A load writes the high byte and keeps the low one, or stops (R65). -/
theorem State.loadHigh_next {s t : State} {m : Reg} {a : Word} {n : Nat} (h : s.loadHigh m a n = .next t) :
    ∃ b, s.readByte a = some b ∧ t = (s.set m (joinBytes b (loByte (s.get m)))).advance n := by
  obtain ⟨b, hb, h⟩ := State.withByte_next h
  injection h with h
  exact ⟨b, hb, h.symm⟩

theorem State.loadHigh_some {s : State} {m : Reg} {a : Word} {n : Nat} {b : Byte} (h : s.readByte a = some b) :
    s.loadHigh m a n = .next ((s.set m (joinBytes b (loByte (s.get m)))).advance n) := by
  simp [State.loadHigh, h, State.setHigh]

/-- A store always goes on (R65). -/
theorem State.storeHigh_next (s : State) (l : Reg) (a : Word) (n : Nat) :
    s.storeHigh l a n = .next ((s.writeByte a (hiByte (s.get l))).advance n) := rfl

/-! ### Results with drawn flags -/

/-- DIV and MOD stop on a zero divisor and otherwise write one part of `DivMod` (R185, R186). -/
theorem State.divide_eq (s : State) (m : Reg) (o : A2Operand) (pick : Word × Word → Word) (h : s.operand o ≠ 0#16) :
    s.divide m o pick =
      .next (((s.set m (pick (divMod (s.get m) (s.operand o)))).drawFlags).advance 2) := by
  simp [State.divide, h, State.writeDraw]

theorem State.divide_next {s t : State} {m : Reg} {o : A2Operand} {pick : Word × Word → Word}
    (h : s.divide m o pick = .next t) :
    s.operand o ≠ 0#16 ∧ t = ((s.set m (pick (divMod (s.get m) (s.operand o)))).drawFlags).advance 2 := by
  by_cases h0 : s.operand o = 0#16
  · simp [State.divide, h0] at h
  · rw [State.divide_eq s m o pick h0] at h
    injection h with h
    exact ⟨h0, h.symm⟩

/-- ROL, ROR, SHL and SHR go on below 16 alone; amount 0 keeps the destination (R230, R250). -/
theorem State.shift_next {s t : State} {m : Reg} {o : A2Operand} {f : Word → Nat → Word}
    (h : s.shift m o f = .next t) :
    s.amount o < 16 ∧
      t = ((s.set m (if s.amount o = 0 then s.get m else f (s.get m) (s.amount o))).drawFlags).advance 2 := by
  by_cases h1 : 16 ≤ s.amount o
  · simp [State.shift, h1] at h
  · refine ⟨by omega, ?_⟩
    by_cases h0 : s.amount o = 0
    · simp only [State.shift, h0] at h
      injection h with h
      simp [h0, ← h]
    · simp only [State.shift, h1, h0, if_false, State.writeDraw] at h
      injection h with h
      simp [h0, ← h]

/-- SCL and SCR go on below 16 alone; amount 0 keeps the destination and draws C, else C is the bit given (R231, R232). -/
theorem State.shiftCarry_next {s t : State} {m : Reg} {o : A2Operand} {f : Word → Nat → Word} {g : Word → Nat → Bool}
    (h : s.shiftCarry m o f g = .next t) :
    (s.amount o = 0 ∧ t = s.drawFlags.advance 2) ∨
      (1 ≤ s.amount o ∧ s.amount o < 16 ∧
        t = (((s.set m (f (s.get m) (s.amount o))).carryDrawZS (g (s.get m) (s.amount o))).advance 2)) := by
  by_cases h1 : 16 ≤ s.amount o
  · simp [State.shiftCarry, h1] at h
  · by_cases h0 : s.amount o = 0
    · simp only [State.shiftCarry, h0] at h
      injection h with h
      exact .inl ⟨h0, h.symm⟩
    · simp only [State.shiftCarry, h1, h0, if_false] at h
      injection h with h
      exact .inr ⟨by omega, by omega, h.symm⟩

/-! ### Fetch -/

/-- `bytesFrom` answers as many bytes as it is asked for. -/
theorem State.bytesFrom_length {s : State} {n : Nat} {a : Word} {bs : List Byte} (h : s.bytesFrom n a = .ok bs) :
    bs.length = n := by
  induction n generalizing a bs with
  | zero => simp [State.bytesFrom] at h; simp [← h]
  | succ n ih =>
    cases hb : s.readByte a with
    | none => simp [State.bytesFrom, hb] at h
    | some b =>
      cases hr : s.bytesFrom n (a + 1#16) with
      | error f => simp [State.bytesFrom, hb, hr] at h
      | ok rest =>
        simp only [State.bytesFrom, hb, hr, Except.ok.injEq] at h
        simp [← h, ih hr]

/-- A fetch answers the instruction's bytes, the first of them at `pc`, and no more (R77). -/
theorem State.fetch_ok {s : State} {bs : List Byte} (h : s.fetch = .ok bs) :
    ∃ b0 tl, bs = b0 :: tl ∧ s.readByte s.pc = some b0 ∧ tl.length = fetchLength b0 - 1 ∧
      s.bytesFrom (fetchLength b0) s.pc = .ok bs := by
  cases hb : s.readByte s.pc with
  | none => simp [State.fetch, hb] at h
  | some b0 =>
    simp only [State.fetch, hb] at h
    have hlen := State.bytesFrom_length h
    obtain ⟨n, hn⟩ : ∃ n, fetchLength b0 = n + 1 := ⟨fetchLength b0 - 1, by have := fetchLength_bounds b0; omega⟩
    have h' := h
    rw [hn] at h'
    cases hr : s.bytesFrom n (s.pc + 1#16) with
    | error f => simp [State.bytesFrom, hb, hr] at h'
    | ok rest =>
      simp only [State.bytesFrom, hb, hr, Except.ok.injEq] at h'
      refine ⟨b0, rest, h'.symm, rfl, ?_, h⟩
      rw [← h'] at hlen
      simp at hlen
      omega

/-- What a fetch answers always decodes (R95, R104). -/
theorem State.fetch_decodes {s : State} {bs : List Byte} (h : s.fetch = .ok bs) : ∃ i, decode bs = .ok (i, []) := by
  obtain ⟨b0, tl, rfl, _, hl, _⟩ := State.fetch_ok h
  exact decode_fetched hl

end Sys2Proof.Machine
end

