-- ==== Sys2Proof/Laws/PerInstr.lean ====
section
/-! SUPPORT. Facts about every instruction as syntax, one lemma per constructor of `Instr`. -/

namespace Sys2Proof.Laws

/-- The encoder writes as many bytes as a fetch reads once it has the first of them (spec/30_encoding.md R90, R91). -/
def EncodedLength.Statement (i : Instr) : Prop :=
  ∃ b0 tl, encode i = b0 :: tl ∧ tl.length = fetchLength b0 - 1

theorem EncodedLength.nop : EncodedLength.Statement .nop := ⟨_, _, rfl, rfl⟩

theorem EncodedLength.int : EncodedLength.Statement .int := ⟨_, _, rfl, rfl⟩

theorem EncodedLength.eni : EncodedLength.Statement .eni := ⟨_, _, rfl, rfl⟩

theorem EncodedLength.dei : EncodedLength.Statement .dei := ⟨_, _, rfl, rfl⟩

theorem EncodedLength.rst : EncodedLength.Statement .rst := ⟨_, _, rfl, rfl⟩

theorem EncodedLength.hlt : EncodedLength.Statement .hlt := ⟨_, _, rfl, rfl⟩

theorem EncodedLength.swp : EncodedLength.Statement .swp := ⟨_, _, rfl, rfl⟩

theorem EncodedLength.reserved07 : EncodedLength.Statement .reserved07 := ⟨_, _, rfl, rfl⟩

theorem EncodedLength.cmp : EncodedLength.Statement .cmp := ⟨_, _, rfl, rfl⟩

theorem EncodedLength.ret : EncodedLength.Statement .ret := ⟨_, _, rfl, rfl⟩

theorem EncodedLength.cmu : EncodedLength.Statement .cmu := ⟨_, _, rfl, rfl⟩

theorem EncodedLength.reserved0B : EncodedLength.Statement .reserved0B := ⟨_, _, rfl, rfl⟩

theorem EncodedLength.reserved0C (low : BitVec 2) : EncodedLength.Statement (.reserved0C low) := by
  refine ⟨_, _, rfl, ?_⟩
  revert low
  decide

theorem EncodedLength.pus (r : Reg) : EncodedLength.Statement (.pus r) := by
  cases r <;> exact ⟨_, _, rfl, rfl⟩

theorem EncodedLength.pop (r : Reg) : EncodedLength.Statement (.pop r) := by
  cases r <;> exact ⟨_, _, rfl, rfl⟩

theorem EncodedLength.reserved18 (low : BitVec 2) : EncodedLength.Statement (.reserved18 low) := by
  refine ⟨_, _, rfl, ?_⟩
  revert low
  decide

theorem EncodedLength.reserved1C (low : BitVec 1) : EncodedLength.Statement (.reserved1C low) := by
  refine ⟨_, _, rfl, ?_⟩
  revert low
  decide

theorem EncodedLength.reserved1E : EncodedLength.Statement .reserved1E := ⟨_, _, rfl, rfl⟩

theorem EncodedLength.ljp (a : Word) : EncodedLength.Statement (.ljp a) := ⟨_, _, rfl, rfl⟩

theorem EncodedLength.unassigned20 (low : BitVec 2) : EncodedLength.Statement (.unassigned20 low) := by
  refine ⟨_, _, rfl, ?_⟩
  revert low
  decide

theorem EncodedLength.jmr (r : Reg) : EncodedLength.Statement (.jmr r) := by
  cases r <;> exact ⟨_, _, rfl, rfl⟩

theorem EncodedLength.jzr (r : Reg) : EncodedLength.Statement (.jzr r) := by
  cases r <;> exact ⟨_, _, rfl, rfl⟩

theorem EncodedLength.jnr (r : Reg) : EncodedLength.Statement (.jnr r) := by
  cases r <;> exact ⟨_, _, rfl, rfl⟩

theorem EncodedLength.jlr (r : Reg) : EncodedLength.Statement (.jlr r) := by
  cases r <;> exact ⟨_, _, rfl, rfl⟩

theorem EncodedLength.jgr (r : Reg) : EncodedLength.Statement (.jgr r) := by
  cases r <;> exact ⟨_, _, rfl, rfl⟩

theorem EncodedLength.jor (r : Reg) : EncodedLength.Statement (.jor r) := by
  cases r <;> exact ⟨_, _, rfl, rfl⟩

theorem EncodedLength.jur (r : Reg) : EncodedLength.Statement (.jur r) := by
  cases r <;> exact ⟨_, _, rfl, rfl⟩

theorem EncodedLength.reserved40 (low : BitVec 4) : EncodedLength.Statement (.reserved40 low) := by
  refine ⟨_, _, rfl, ?_⟩
  revert low
  decide

theorem EncodedLength.mov (m : Reg) (l : Reg) : EncodedLength.Statement (.mov m l) := by
  cases m <;> cases l <;> exact ⟨_, _, rfl, rfl⟩

theorem EncodedLength.lod (m : Reg) (l : Reg) : EncodedLength.Statement (.lod m l) := by
  cases m <;> cases l <;> exact ⟨_, _, rfl, rfl⟩

theorem EncodedLength.sto (m : Reg) (l : Reg) : EncodedLength.Statement (.sto m l) := by
  cases m <;> cases l <;> exact ⟨_, _, rfl, rfl⟩

theorem EncodedLength.add (m : Reg) (o : A2Operand) : EncodedLength.Statement (.add m o) := ⟨_, _, rfl, rfl⟩

theorem EncodedLength.sub (m : Reg) (o : A2Operand) : EncodedLength.Statement (.sub m o) := ⟨_, _, rfl, rfl⟩

theorem EncodedLength.mul (m : Reg) (o : A2Operand) : EncodedLength.Statement (.mul m o) := ⟨_, _, rfl, rfl⟩

theorem EncodedLength.div (m : Reg) (o : A2Operand) : EncodedLength.Statement (.div m o) := ⟨_, _, rfl, rfl⟩

theorem EncodedLength.mod (m : Reg) (o : A2Operand) : EncodedLength.Statement (.mod m o) := ⟨_, _, rfl, rfl⟩

theorem EncodedLength.reserved85 : EncodedLength.Statement .reserved85 := ⟨_, _, rfl, rfl⟩

theorem EncodedLength.reserved86 (low : BitVec 1) : EncodedLength.Statement (.reserved86 low) := by
  refine ⟨_, _, rfl, ?_⟩
  revert low
  decide

theorem EncodedLength.neg (r : Reg) : EncodedLength.Statement (.neg r) := by
  cases r <;> exact ⟨_, _, rfl, rfl⟩

theorem EncodedLength.not (r : Reg) : EncodedLength.Statement (.not r) := by
  cases r <;> exact ⟨_, _, rfl, rfl⟩

theorem EncodedLength.and (m : Reg) (l : Reg) : EncodedLength.Statement (.and m l) := by
  cases m <;> cases l <;> exact ⟨_, _, rfl, rfl⟩

theorem EncodedLength.ior (m : Reg) (l : Reg) : EncodedLength.Statement (.ior m l) := by
  cases m <;> cases l <;> exact ⟨_, _, rfl, rfl⟩

theorem EncodedLength.xor (m : Reg) (l : Reg) : EncodedLength.Statement (.xor m l) := by
  cases m <;> cases l <;> exact ⟨_, _, rfl, rfl⟩

theorem EncodedLength.rcl (v : BitVec 4) : EncodedLength.Statement (.rcl v) := by
  refine ⟨_, _, rfl, ?_⟩
  revert v
  decide

theorem EncodedLength.cal (a : Word) : EncodedLength.Statement (.cal a) := ⟨_, _, rfl, rfl⟩

theorem EncodedLength.unassignedD1 : EncodedLength.Statement .unassignedD1 := ⟨_, _, rfl, rfl⟩

theorem EncodedLength.unassignedD2 (low : BitVec 1) : EncodedLength.Statement (.unassignedD2 low) := by
  refine ⟨_, _, rfl, ?_⟩
  revert low
  decide

theorem EncodedLength.rcr (r : Reg) : EncodedLength.Statement (.rcr r) := by
  cases r <;> exact ⟨_, _, rfl, rfl⟩

theorem EncodedLength.car (r : Reg) (a : Word) : EncodedLength.Statement (.car r a) := by
  cases r <;> exact ⟨_, _, rfl, rfl⟩

theorem EncodedLength.scl (m : Reg) (o : A2Operand) : EncodedLength.Statement (.scl m o) := ⟨_, _, rfl, rfl⟩

theorem EncodedLength.scr (m : Reg) (o : A2Operand) : EncodedLength.Statement (.scr m o) := ⟨_, _, rfl, rfl⟩

theorem EncodedLength.reservedDE : EncodedLength.Statement .reservedDE := ⟨_, _, rfl, rfl⟩

theorem EncodedLength.irf (k : Byte) : EncodedLength.Statement (.irf k) := ⟨_, _, rfl, rfl⟩

theorem EncodedLength.laa (r : Reg) (a : Word) : EncodedLength.Statement (.laa r a) := by
  cases r <;> exact ⟨_, _, rfl, rfl⟩

theorem EncodedLength.rol (m : Reg) (o : A2Operand) : EncodedLength.Statement (.rol m o) := ⟨_, _, rfl, rfl⟩

theorem EncodedLength.ror (m : Reg) (o : A2Operand) : EncodedLength.Statement (.ror m o) := ⟨_, _, rfl, rfl⟩

theorem EncodedLength.shl (m : Reg) (o : A2Operand) : EncodedLength.Statement (.shl m o) := ⟨_, _, rfl, rfl⟩

theorem EncodedLength.shr (m : Reg) (o : A2Operand) : EncodedLength.Statement (.shr m o) := ⟨_, _, rfl, rfl⟩

theorem EncodedLength.cli (z : Bool) (c : Bool) (s : Bool) : EncodedLength.Statement (.cli z c s) := ⟨_, _, rfl, rfl⟩

theorem EncodedLength.jmp (d : Byte) : EncodedLength.Statement (.jmp d) := ⟨_, _, rfl, rfl⟩

theorem EncodedLength.jiz (d : Byte) : EncodedLength.Statement (.jiz d) := ⟨_, _, rfl, rfl⟩

theorem EncodedLength.jnz (d : Byte) : EncodedLength.Statement (.jnz d) := ⟨_, _, rfl, rfl⟩

theorem EncodedLength.jlt (d : Byte) : EncodedLength.Statement (.jlt d) := ⟨_, _, rfl, rfl⟩

theorem EncodedLength.jge (d : Byte) : EncodedLength.Statement (.jge d) := ⟨_, _, rfl, rfl⟩

theorem EncodedLength.jof (d : Byte) : EncodedLength.Statement (.jof d) := ⟨_, _, rfl, rfl⟩

theorem EncodedLength.jnf (d : Byte) : EncodedLength.Statement (.jnf d) := ⟨_, _, rfl, rfl⟩

theorem EncodedLength.ldi (m : Reg) (l : Reg) (v : BitVec 4) : EncodedLength.Statement (.ldi m l v) := ⟨_, _, rfl, rfl⟩

theorem EncodedLength.sti (m : Reg) (l : Reg) (v : BitVec 4) : EncodedLength.Statement (.sti m l v) := ⟨_, _, rfl, rfl⟩

theorem EncodedLength.lri (m : Reg) (d : Reg) (l : Reg) (v : BitVec 2) : EncodedLength.Statement (.lri m d l v) := ⟨_, _, rfl, rfl⟩

theorem EncodedLength.sri (m : Reg) (d : Reg) (l : Reg) (v : BitVec 2) : EncodedLength.Statement (.sri m d l v) := ⟨_, _, rfl, rfl⟩

theorem EncodedLength.mvi (r : Reg) (k : Word) : EncodedLength.Statement (.mvi r k) := by
  cases r <;> exact ⟨_, _, rfl, rfl⟩

theorem EncodedLength.inc (r : Reg) : EncodedLength.Statement (.inc r) := by
  cases r <;> exact ⟨_, _, rfl, rfl⟩

theorem EncodedLength.dec (r : Reg) : EncodedLength.Statement (.dec r) := by
  cases r <;> exact ⟨_, _, rfl, rfl⟩

end Sys2Proof.Laws
end

