-- ==== Sys2Proof/Laws/Safety.lean ====
section
/-! SUPPORT. The words the statements are written in: how a decoding is shown, what `holds` says of a fetch, what
`stored` says of memory, and what a step can do. -/

namespace Sys2Proof

theorem Decodes.oneByte {b0 : Byte} {i : Instr} {row : OpcodeRow} (h : rowOf b0 = some row) (hl : fetchLength b0 = 1)
    (hb : ∀ x y, row.build b0 x y = i) : Decodes [b0] i := by
  intro rest
  rw [List.cons_append, decode_of_row h (by omega), hb, hl]
  rfl

theorem Decodes.twoBytes {b0 b1 : Byte} {i : Instr} {row : OpcodeRow} (h : rowOf b0 = some row)
    (hl : fetchLength b0 = 2) (hb : ∀ y, row.build b0 b1 y = i) : Decodes [b0, b1] i := by
  intro rest
  rw [List.cons_append, decode_of_row h (by simp [hl]), hl]
  simp [hb]

theorem Decodes.threeBytes {b0 b1 b2 : Byte} {i : Instr} {row : OpcodeRow} (h : rowOf b0 = some row)
    (hl : fetchLength b0 = 3) (hb : row.build b0 b1 b2 = i) : Decodes [b0, b1, b2] i := by
  intro rest
  rw [List.cons_append, decode_of_row h (by simp [hl]), hl]
  simp [hb]

namespace Machine

/-- Bytes that stand in memory are what `bytesFrom` reads. -/
theorem State.bytesFrom_holds {s : State} {a : Word} {bs : List Byte} (h : s.holds a bs) :
    s.bytesFrom bs.length a = .ok bs := by
  induction bs generalizing a with
  | nil => rfl
  | cons b bs ih =>
    obtain ⟨h1, h2⟩ := h
    simp only [List.length_cons, State.bytesFrom, h1]
    rw [ih h2]

/-- The bytes of one whole instruction at `pc` are what a fetch reads (R77). -/
theorem State.fetch_holds {s : State} {b0 : Byte} {tl : List Byte} (h : s.holds s.pc (b0 :: tl))
    (hl : tl.length = fetchLength b0 - 1) : s.fetch = .ok (b0 :: tl) := by
  have hn : fetchLength b0 = (b0 :: tl).length := by
    have := (fetchLength_bounds b0).1
    rw [List.length_cons, hl]
    omega
  have := State.bytesFrom_holds h
  simp only [State.fetch, h.1]
  rw [hn, this]

/-- `holds` looks at memory alone. -/
theorem State.holds_congr {s t : State} (h : t.mem = s.mem) (a : Word) (bs : List Byte) :
    t.holds a bs ↔ s.holds a bs := by
  induction bs generalizing a with
  | nil => exact Iff.rfl
  | cons b bs ih => simp only [State.holds, State.readByte_congr h, ih]

/-- Bytes that stand in memory, one by one: the k-th is read at the k-th address. -/
theorem State.holds_getElem? {s : State} {a : Word} {bs : List Byte} {k : Nat} {x : Byte} (h : s.holds a bs)
    (hk : bs[k]? = some x) : s.readByte (a + BitVec.ofNat 16 k) = some x := by
  induction bs generalizing a k with
  | nil => simp at hk
  | cons b bs ih =>
    cases k with
    | zero => simpa [← hk] using h.1
    | succ k =>
      have e : a + 1#16 + BitVec.ofNat 16 k = a + BitVec.ofNat 16 (k + 1) := by
        rw [BitVec.add_assoc, Nat.add_comm k 1, BitVec.ofNat_add]
      rw [← e]
      exact ih h.2 (by simpa using hk)

/-- What `bytesFrom` reads stands in memory. -/
theorem State.holds_of_bytesFrom {s : State} {n : Nat} {a : Word} {bs : List Byte} (h : s.bytesFrom n a = .ok bs) :
    s.holds a bs := by
  induction n generalizing a bs with
  | zero => injection h with h; subst h; exact trivial
  | succ n ih =>
    cases hb : s.readByte a with
    | none => simp [State.bytesFrom, hb] at h
    | some b =>
      cases hr : s.bytesFrom n (a + 1#16) with
      | error f => simp [State.bytesFrom, hb, hr] at h
      | ok rest =>
        simp only [State.bytesFrom, hb, hr, Except.ok.injEq] at h
        subst h
        exact ⟨hb, ih hr⟩

/-- What a fetch reads stands in memory from `pc` on (R77). -/
theorem State.holds_of_fetch {s : State} {bs : List Byte} (h : s.fetch = .ok bs) : s.holds s.pc bs := by
  obtain ⟨_, _, _, _, _, h⟩ := State.fetch_ok h
  exact State.holds_of_bytesFrom h

/-- `bytesFrom` stops at the first byte that holds no value, and names it (U9). -/
theorem State.bytesFrom_unwritten {s : State} {n : Nat} {a : Word} {bs : List Byte} (h : s.holds a bs)
    (hn : bs.length < n) (hu : s.readByte (a + BitVec.ofNat 16 bs.length) = none) :
    s.bytesFrom n a = .error (.unwrittenByte (a + BitVec.ofNat 16 bs.length)) := by
  induction bs generalizing n a with
  | nil =>
    obtain ⟨m, rfl⟩ : ∃ m, n = m + 1 := ⟨n - 1, by have : 0 < n := hn; omega⟩
    have hu' : s.readByte a = none := by simpa using hu
    simp [State.bytesFrom, hu']
  | cons b bs ih =>
    obtain ⟨m, rfl⟩ : ∃ m, n = m + 1 := ⟨n - 1, by omega⟩
    have e : a + BitVec.ofNat 16 (b :: bs).length = a + 1#16 + BitVec.ofNat 16 bs.length := by
      rw [BitVec.add_assoc, List.length_cons, Nat.add_comm bs.length 1, BitVec.ofNat_add]
    rw [e] at hu ⊢
    simp [State.bytesFrom, h.1, ih h.2 (by simpa using hn) hu]

/-- What CAR's two words leave at every address: the four bytes of the context, and elsewhere what was there (R218). -/
theorem State.readByte_writeWords (s : State) (c p q x : Word) :
    ((s.writeWord c p).writeWord (c + 2#16) q).readByte x =
      if x = c + 3#16 then some (loByte q)
      else if x = c + 2#16 then some (hiByte q)
      else if x = c + 1#16 then some (loByte p)
      else if x = c then some (hiByte p)
      else s.readByte x := by
  have e : c + 2#16 + 1#16 = c + 3#16 := by bv_omega
  rw [State.readByte_writeWord, State.readByte_writeWord, e]

/-- What a push leaves: the low byte at the old SP, the high byte below it (R74). -/
theorem State.readByte_push16_stored {s u : State} {v a : Word} {b : Byte} (hu : u.mem = (s.push16 v).mem)
    (hm : (a, b) ∈ [(s.sp, loByte v), (s.sp - 1#16, hiByte v)]) : u.readByte a = some b := by
  rw [State.readByte_congr hu, State.readByte_push16]
  simp only [List.mem_cons, Prod.mk.injEq, List.not_mem_nil, or_false] at hm
  rcases hm with ⟨rfl, rfl⟩ | ⟨rfl, rfl⟩
  · rw [if_neg (by bv_omega), if_pos rfl]
  · rw [if_pos rfl]

/-- What a byte store leaves: the byte at its address (R65). -/
theorem State.readByte_writeByte_stored {s u : State} {c a : Word} {v b : Byte} (hu : u.mem = (s.writeByte c v).mem)
    (hm : (a, b) ∈ [(c, v)]) : u.readByte a = some b := by
  rw [State.readByte_congr hu, State.readByte_writeByte]
  simp only [List.mem_cons, Prod.mk.injEq, List.not_mem_nil, or_false] at hm
  obtain ⟨rfl, rfl⟩ := hm
  rw [if_pos rfl]

/-- Every byte that `stored` names is read at its address after the instruction (R61, R65, R74, R218). -/
theorem State.readByte_stored {i : Instr} {s t : State} {a : Word} {b : Byte} (h : exec i s = .next t)
    (hm : (a, b) ∈ s.stored i) : t.readByte a = some b := by
  cases i <;> simp only [State.stored] at hm <;> try (simp at hm; done)
  case sto => injection h with h; exact State.readByte_writeByte_stored (by rw [← h]; rfl) hm
  case sti => injection h with h; exact State.readByte_writeByte_stored (by rw [← h]; rfl) hm
  case sri => injection h with h; exact State.readByte_writeByte_stored (by rw [← h]; rfl) hm
  case pus => injection h with h; exact State.readByte_push16_stored (by rw [← h]; rfl) hm
  case cal => injection h with h; exact State.readByte_push16_stored (by rw [← h]; rfl) hm
  case car r c =>
    injection h with h
    have hu : t.mem = ((s.writeWord (s.get r) s.returnAddress).writeWord (s.get r + 2#16) s.sp).mem := by
      rw [← h]
      rfl
    rw [State.readByte_congr hu, State.readByte_writeWords]
    simp only [List.mem_cons, Prod.mk.injEq, List.not_mem_nil, or_false] at hm
    rcases hm with ⟨rfl, rfl⟩ | ⟨rfl, rfl⟩ | ⟨rfl, rfl⟩ | ⟨rfl, rfl⟩
    · rw [if_neg (by bv_omega), if_neg (by bv_omega), if_neg (by bv_omega), if_pos rfl]
    · rw [if_neg (by bv_omega), if_neg (by bv_omega), if_pos rfl]
    · rw [if_neg (by bv_omega), if_pos rfl]
    · rw [if_pos rfl]

/-- A pop stops at the first of its two bytes that holds no value, and names it (R75, U9). -/
theorem State.pop16_unwritten {s : State} {k : Word → State → Result} {bs : List Byte} (hl : bs.length < 2)
    (hh : s.holds (s.sp + 1#16) bs) (hu : s.readByte (s.sp + 1#16 + BitVec.ofNat 16 bs.length) = none) :
    s.pop16 k = .fault (.unwrittenByte (s.sp + 1#16 + BitVec.ofNat 16 bs.length)) := by
  match bs, hl with
  | [], _ =>
    have hu1 : s.readByte (s.sp + 1#16) = none := by simpa using hu
    have hu2 : State.readByte { s with sp := s.sp + 1#16 } (s.sp + 1#16) = none := hu1
    simp [State.pop16, hu2]
  | [b], _ =>
    have h1 : State.readByte { s with sp := s.sp + 1#16 } (s.sp + 1#16) = some b := hh.1
    have h2 : State.readByte { s with sp := s.sp + 1#16 + 1#16 } (s.sp + 1#16 + 1#16) = none := hu
    simp only [State.pop16]
    rw [State.withByte_some h1, State.withByte_none h2]
    rfl

/-- Running an instruction: the bytes at `pc` were fetched, they decode, and the instruction is executed (R328). -/
theorem State.runInstruction_next {s t : State} (h : s.runInstruction = .next t) :
    ∃ bs i, s.fetch = .ok bs ∧ decode bs = .ok (i, []) ∧ exec i s = .next t := by
  cases hf : s.fetch with
  | error f => simp [State.runInstruction, hf] at h
  | ok bs =>
    obtain ⟨i, hi⟩ := State.fetch_decodes hf
    simp only [State.runInstruction, hf, hi] at h
    exact ⟨bs, i, rfl, hi, h⟩

/-- Everything one step can do (R328): enter a due interrupt, stay asleep, or execute one instruction. -/
theorem step_next {s t : State} (h : step s = .next t) :
    s.stuck = false ∧
      ((s.arrive.entryDue = true ∧ t = s.arrive.interruptEntry s.pc) ∨
        (s.arrive.entryDue = false ∧ s.sleep = true ∧ t = s.arrive) ∨
        (s.arrive.entryDue = false ∧ s.sleep = false ∧ ∃ i, exec i s.arrive = .next t)) := by
  cases hk : s.stuck with
  | true => simp [step, State.boundary, hk] at h
  | false =>
    refine ⟨rfl, ?_⟩
    simp only [step, State.boundary, hk, Bool.false_eq_true, if_false] at h
    cases hd : s.arrive.entryDue with
    | true =>
      simp only [hd, if_true] at h
      injection h with h
      exact .inl ⟨rfl, h.symm⟩
    | false =>
      simp only [hd, Bool.false_eq_true, if_false, State.arrive_sleep] at h
      cases hs : s.sleep with
      | true =>
        simp only [hs, if_true] at h
        injection h with h
        exact .inr (.inl ⟨rfl, rfl, h.symm⟩)
      | false =>
        simp only [hs, Bool.false_eq_true, if_false] at h
        obtain ⟨bs, i, _, _, h⟩ := State.runInstruction_next h
        exact .inr (.inr ⟨rfl, rfl, i, h⟩)

/-- Where the machine runs an instruction at this boundary, the step is that instruction (R328). -/
theorem step_runs {s : State} (h : s.Runs) : step s = s.arrive.runInstruction := by
  obtain ⟨h1, h2, h3⟩ := h
  simp [step, State.boundary, h1, h2, h3]

end Machine

end Sys2Proof
end

