-- ==== Sys2Proof/Tests/Slice0.lean ====
section
/-! SUPPORT. Tests, each a named theorem on one small case: ill-formed terms, one decoding per constructor, one or two
steps per instruction, and for every statement with hypotheses a case that meets them. Expected results are those of
spec/95_test_vectors.md, parts 1 and 2, or follow from the encoding tables of spec/30_encoding.md by hand. -/

namespace Sys2Proof.Tests

open Sys2Proof Sys2Proof.Machine

/-! ### Well-formedness: an immediate of zero cannot be encoded (R94) -/

theorem test_wellFormed_add : Instr.wellFormed (.add .ax (.imm 0)) = false := rfl
theorem test_wellFormed_sub : Instr.wellFormed (.sub .ax (.imm 0)) = false := rfl
theorem test_wellFormed_mul : Instr.wellFormed (.mul .ax (.imm 0)) = false := rfl
theorem test_wellFormed_div : Instr.wellFormed (.div .ax (.imm 0)) = false := rfl
theorem test_wellFormed_mod : Instr.wellFormed (.mod .ax (.imm 0)) = false := rfl
theorem test_wellFormed_scl : Instr.wellFormed (.scl .ax (.imm 0)) = false := rfl
theorem test_wellFormed_scr : Instr.wellFormed (.scr .ax (.imm 0)) = false := rfl
theorem test_wellFormed_rol : Instr.wellFormed (.rol .ax (.imm 0)) = false := rfl
theorem test_wellFormed_ror : Instr.wellFormed (.ror .ax (.imm 0)) = false := rfl
theorem test_wellFormed_shl : Instr.wellFormed (.shl .ax (.imm 0)) = false := rfl
theorem test_wellFormed_shr : Instr.wellFormed (.shr .ax (.imm 0)) = false := rfl
theorem test_wellFormed_accepts : Instr.wellFormed (.add .sp (.imm 15)) = true := rfl

/-! ### Decoding: one word per constructor, written out from its row of the encoding (spec/30_encoding.md section 6) -/

theorem test_decode_nop : decodeTableWord 8 0x00 = some (.nop) := rfl
theorem test_decode_int : decodeTableWord 8 0x01 = some (.int) := rfl
theorem test_decode_eni : decodeTableWord 8 0x02 = some (.eni) := rfl
theorem test_decode_dei : decodeTableWord 8 0x03 = some (.dei) := rfl
theorem test_decode_rst : decodeTableWord 8 0x04 = some (.rst) := rfl
theorem test_decode_hlt : decodeTableWord 8 0x05 = some (.hlt) := rfl
theorem test_decode_swp : decodeTableWord 8 0x06 = some (.swp) := rfl
theorem test_decode_reserved07 : decodeTableWord 8 0x07 = some (.reserved07) := rfl
theorem test_decode_cmp : decodeTableWord 8 0x08 = some (.cmp) := rfl
theorem test_decode_ret : decodeTableWord 8 0x09 = some (.ret) := rfl
theorem test_decode_cmu : decodeTableWord 8 0x0A = some (.cmu) := rfl
theorem test_decode_reserved0B : decodeTableWord 8 0x0B = some (.reserved0B) := rfl
theorem test_decode_reserved0C : decodeTableWord 8 0b00001111 = some (.reserved0C 3) := rfl
theorem test_decode_pus : decodeTableWord 8 0b00010011 = some (.pus .sp) := rfl
theorem test_decode_pop : decodeTableWord 8 0b00010101 = some (.pop .bx) := rfl
theorem test_decode_reserved18 : decodeTableWord 8 0b00011010 = some (.reserved18 2) := rfl
theorem test_decode_reserved1C : decodeTableWord 8 0b00011101 = some (.reserved1C 1) := rfl
theorem test_decode_reserved1E : decodeTableWord 8 0x1E = some (.reserved1E) := rfl
theorem test_decode_ljp : decodeTableWord 24 0x34121F = some (.ljp 0x1234) := rfl
theorem test_decode_unassigned20 : decodeTableWord 8 0b00100011 = some (.unassigned20 3) := rfl
theorem test_decode_jmr : decodeTableWord 8 0b00100111 = some (.jmr .sp) := rfl
theorem test_decode_jzr : decodeTableWord 8 0b00101001 = some (.jzr .bx) := rfl
theorem test_decode_jnr : decodeTableWord 8 0b00101110 = some (.jnr .cx) := rfl
theorem test_decode_jlr : decodeTableWord 8 0b00110010 = some (.jlr .cx) := rfl
theorem test_decode_jgr : decodeTableWord 8 0b00110100 = some (.jgr .ax) := rfl
theorem test_decode_jor : decodeTableWord 8 0b00111001 = some (.jor .bx) := rfl
theorem test_decode_jur : decodeTableWord 8 0b00111111 = some (.jur .sp) := rfl
theorem test_decode_reserved40 : decodeTableWord 8 0b01001111 = some (.reserved40 15) := rfl
theorem test_decode_mov : decodeTableWord 8 0b01011100 = some (.mov .sp .ax) := rfl
theorem test_decode_lod : decodeTableWord 8 0b01100110 = some (.lod .bx .cx) := rfl
theorem test_decode_sto : decodeTableWord 8 0b01111000 = some (.sto .cx .ax) := rfl
theorem test_decode_add : decodeTableWord 16 0b0000100010000000 = some (.add .cx (.reg .ax)) := rfl
theorem test_decode_sub : decodeTableWord 16 0b0000000110000001 = some (.sub .ax (.reg .bx)) := rfl
theorem test_decode_mul : decodeTableWord 16 0b1111000010000010 = some (.mul .ax (.imm 15)) := rfl
theorem test_decode_div : decodeTableWord 16 0b0111000010000011 = some (.div .ax (.imm 7)) := rfl
theorem test_decode_mod : decodeTableWord 16 0b0111000010000100 = some (.mod .ax (.imm 7)) := rfl
theorem test_decode_reserved85 : decodeTableWord 8 0x85 = some (.reserved85) := rfl
theorem test_decode_reserved86 : decodeTableWord 8 0b10000111 = some (.reserved86 1) := rfl
theorem test_decode_neg : decodeTableWord 8 0b10001011 = some (.neg .sp) := rfl
theorem test_decode_not : decodeTableWord 8 0b10001101 = some (.not .bx) := rfl
theorem test_decode_and : decodeTableWord 8 0b10010001 = some (.and .ax .bx) := rfl
theorem test_decode_ior : decodeTableWord 8 0b10101110 = some (.ior .sp .cx) := rfl
theorem test_decode_xor : decodeTableWord 8 0b10110001 = some (.xor .ax .bx) := rfl
theorem test_decode_rcl : decodeTableWord 8 0b11000100 = some (.rcl 4) := rfl
theorem test_decode_cal : decodeTableWord 24 0x0B03D0 = some (.cal 0x030B) := rfl
theorem test_decode_unassignedD1 : decodeTableWord 8 0xD1 = some (.unassignedD1) := rfl
theorem test_decode_unassignedD2 : decodeTableWord 8 0b11010011 = some (.unassignedD2 1) := rfl
theorem test_decode_rcr : decodeTableWord 8 0b11010111 = some (.rcr .sp) := rfl
theorem test_decode_car : decodeTableWord 24 0x0005DB = some (.car .sp 0x0500) := rfl
theorem test_decode_scl : decodeTableWord 16 0b0011000011011100 = some (.scl .ax (.imm 3)) := rfl
theorem test_decode_scr : decodeTableWord 16 0b0100010011011101 = some (.scr .bx (.imm 4)) := rfl
theorem test_decode_reservedDE : decodeTableWord 8 0xDE = some (.reservedDE) := rfl
theorem test_decode_irf : decodeTableWord 16 0x80DF = some (.irf 0x80) := rfl
theorem test_decode_laa : decodeTableWord 24 0x3C07E0 = some (.laa .ax 0x073C) := rfl
theorem test_decode_rol : decodeTableWord 16 0b1000000011100100 = some (.rol .ax (.imm 8)) := rfl
theorem test_decode_ror : decodeTableWord 16 0b0000000111100101 = some (.ror .ax (.reg .bx)) := rfl
theorem test_decode_shl : decodeTableWord 16 0b0000101011100110 = some (.shl .cx (.reg .cx)) := rfl
theorem test_decode_shr : decodeTableWord 16 0b0010000011100111 = some (.shr .ax (.imm 2)) := rfl
theorem test_decode_cli : decodeTableWord 16 0b0100000011101000 = some (.cli false true false) := rfl
theorem test_decode_jmp : decodeTableWord 16 0xFEE9 = some (.jmp 0xFE) := rfl
theorem test_decode_jiz : decodeTableWord 16 0x06EA = some (.jiz 0x06) := rfl
theorem test_decode_jnz : decodeTableWord 16 0xFCEB = some (.jnz 0xFC) := rfl
theorem test_decode_jlt : decodeTableWord 16 0x08EC = some (.jlt 0x08) := rfl
theorem test_decode_jge : decodeTableWord 16 0x80ED = some (.jge 0x80) := rfl
theorem test_decode_jof : decodeTableWord 16 0x04EE = some (.jof 0x04) := rfl
theorem test_decode_jnf : decodeTableWord 16 0x05EF = some (.jnf 0x05) := rfl
theorem test_decode_ldi : decodeTableWord 16 0b1111001111110000 = some (.ldi .ax .sp 15) := rfl
theorem test_decode_sti : decodeTableWord 16 0b1110110011110001 = some (.sti .sp .ax 14) := rfl
theorem test_decode_lri : decodeTableWord 16 0b1100111011110010 = some (.lri .ax .sp .cx 3) := rfl
theorem test_decode_sri : decodeTableWord 16 0b1111100011110011 = some (.sri .sp .cx .ax 3) := rfl
theorem test_decode_mvi : decodeTableWord 24 0x0080F7 = some (.mvi .sp 0x8000) := rfl
theorem test_decode_inc : decodeTableWord 8 0b11111011 = some (.inc .sp) := rfl
theorem test_decode_dec : decodeTableWord 8 0b11111110 = some (.dec .cx) := rfl
theorem test_decode_ignoredBits : decodeTableWord 16 0x5B80 = some (.add .cx (.imm 5)) := rfl
theorem test_decode_truncated :
    (match decode [0x1F, 0x12] with | .ok _ => false | .error e => e == .truncated 0x1F) = true := rfl
theorem test_decode_empty : (match decode [] with | .ok _ => false | .error e => e == .noBytes) = true := rfl

/-! ### Assembling (spec/95_test_vectors.md part 1: notes 37, 45, 56; P1's loop for the label) -/

theorem test_assemble_scl : assemble 0 ⟨"SCL", [.reg .ax, .num 3]⟩ = some (.scl .ax (.imm 3)) := rfl
theorem test_assemble_cli : assemble 0 ⟨"CLI", [.num 0xFF]⟩ = some (.cli true true true) := rfl
theorem test_assemble_sri : assemble 0 ⟨"SRI", [.reg .sp, .reg .cx, .reg .ax, .num 3]⟩ = some (.sri .sp .cx .ax 3) := rfl
theorem test_assemble_label : assemble 0x010D ⟨"JNZ", [.label 0x0109]⟩ = some (.jnz 0xFC) := rfl
theorem test_assemble_far_label : assemble 0x010D ⟨"JNZ", [.label 0x0209]⟩ = none := rfl
theorem test_assemble_zero : assemble 0 ⟨"ADD", [.reg .cx, .num 0]⟩ = none := rfl

/-! ### Steps -/

/-- The reset state with these bytes at 0x0100 and `pc` there. -/
def at0100 (bs : List Byte) : State := ({ State.reset with pc := 0x0100 } : State).writeBytes 0x0100 bs

/-- The step goes on and the next state is as said. -/
def stepsTo (s : State) (p : State → Bool) : Bool :=
  match step s with
  | .next t => p t
  | _ => false

/-- The step stops with this fault. -/
def stops (s : State) (f : Fault) : Bool :=
  match step s with
  | .fault g => g == f
  | _ => false

theorem test_nop :
    stepsTo (at0100 [0x00])
      (fun t => t.pc == 0x0101 && t.output == []) = true := rfl
theorem test_int :
    stepsTo { at0100 [0x01] with ie := true, rs := ⟨true, false, true⟩ }
      (fun t => t.is.pc == 0x0101 && t.is.rs == ⟨true, false, true⟩ && t.inh && t.ie && t.pc == 0) = true := rfl
theorem test_int_disabled :
    stops (at0100 [0x01]) (.intNotAccepted) = true := rfl
theorem test_eni_in_routine :
    stepsTo { at0100 [0x02] with rf := 0x81, inh := true }
      (fun t => t.ie && t.rf == 0 && t.inh) = true := rfl
theorem test_dei :
    stepsTo { at0100 [0x03] with inh := true, ie := true, rf := 0x04 }
      (fun t => !t.ie && t.rf == 0x04) = true := rfl
theorem test_rst_keeps_memory :
    stepsTo { at0100 [0x04] with inh := true }
      (fun t => t.pc == 0 && !t.inh && !t.sleep && !t.is.valid && t.readByte 0x0100 == some 0x04) = true := rfl
theorem test_hlt_sleeps :
    stepsTo { at0100 [0x05] with ie := true }
      (fun t => t.rf == 0 && t.pc == 0x0101 && t.sleep && !t.stuck) = true := rfl
theorem test_hlt_sticks :
    stepsTo { at0100 [0x05] with rf := 0x04 }
      (fun t => t.rf == 0 && t.pc == 0x0101 && t.stuck) = true := rfl
theorem test_swp :
    stepsTo (at0100 [0x06])
      (fun t => t.output == [.swapBuffers] && t.pc == 0x0101) = true := rfl
theorem test_reserved :
    stops (at0100 [0x4F]) (.reservedOpcode 0x4F) = true := rfl
theorem test_unassigned :
    stops (at0100 [0xD3]) (.reservedOpcode 0xD3) = true := rfl
theorem test_cmp_signed :
    stepsTo { at0100 [0x08] with ax := 0x8000, bx := 1, rs := ⟨true, true, false⟩ }
      (fun t => t.rs == ⟨false, true, true⟩) = true := rfl
theorem test_cmu_unsigned :
    stepsTo { at0100 [0x0A] with ax := 0xFFFF, bx := 0x7FFF, rs := ⟨true, false, true⟩ }
      (fun t => t.rs == ⟨false, false, false⟩) = true := rfl
theorem test_ret :
    stepsTo { at0100 [0x09] with ax := 0xDEAD, inh := true, rf := 0xFF, is :=
        ⟨1, 2, 3, 0x9000, 0x0234, ⟨true, false, false⟩, true⟩ }
      (fun t => t.ax == 1 && t.sp == 0x9000 && t.pc == 0x0234 && t.rs == ⟨true, false, false⟩ && t.rf == 0 &&
        !t.inh && !t.ie) = true := rfl
theorem test_ret_before_entry :
    stops (at0100 [0x09]) (.retBeforeEntry) = true := rfl
theorem test_pus_wraps :
    stepsTo { at0100 [0x10] with ax := 0xABCD, sp := 0 }
      (fun t => t.readByte 0x0000 == some 0xCD && t.readByte 0xFFFF == some 0xAB && t.sp == 0xFFFE) = true := rfl
theorem test_pus_sp :
    stepsTo { at0100 [0x13] with sp := 0x9000 }
      (fun t => t.readByte 0x9000 == some 0x00 && t.readByte 0x8FFF == some 0x90 && t.sp == 0x8FFE) = true := rfl
theorem test_pop :
    stepsTo { (at0100 [0x15]).writeBytes 0x8FFF [0x12, 0x34] with sp := 0x8FFE }
      (fun t => t.bx == 0x1234 && t.sp == 0x9000) = true := rfl
theorem test_pop_sp :
    stepsTo { (at0100 [0x17]).writeBytes 0x8FFF [0x12, 0x34] with sp := 0x8FFE }
      (fun t => t.sp == 0x1234) = true := rfl
theorem test_ljp :
    stepsTo (at0100 [0x1F, 0x12, 0x34])
      (fun t => t.pc == 0x1234) = true := rfl
theorem test_jmr :
    stepsTo { at0100 [0x27] with sp := 0x0500 }
      (fun t => t.pc == 0x0500) = true := rfl
theorem test_jzr :
    stepsTo { at0100 [0x29] with bx := 0x0400, rs := ⟨true, false, false⟩ }
      (fun t => t.pc == 0x0400) = true := rfl
theorem test_jnr :
    stepsTo { at0100 [0x2E] with cx := 0x0400, rs := ⟨true, false, false⟩ }
      (fun t => t.pc == 0x0101) = true := rfl
theorem test_jlr :
    stepsTo { at0100 [0x32] with cx := 0x2000, rs := ⟨false, false, true⟩ }
      (fun t => t.pc == 0x2000) = true := rfl
theorem test_jgr :
    stepsTo { at0100 [0x34] with ax := 0x2000, rs := ⟨false, false, true⟩ }
      (fun t => t.pc == 0x0101) = true := rfl
theorem test_jor :
    stepsTo { at0100 [0x39] with bx := 0x0040, rs := ⟨false, true, false⟩ }
      (fun t => t.pc == 0x0040) = true := rfl
theorem test_jur :
    stepsTo { at0100 [0x3F] with sp := 0x0500, rs := ⟨false, true, false⟩ }
      (fun t => t.pc == 0x0101) = true := rfl
theorem test_mov :
    stepsTo { at0100 [0x51] with bx := 0xBEEF }
      (fun t => t.ax == 0xBEEF && t.bx == 0xBEEF) = true := rfl
theorem test_lod_same_register :
    stepsTo { (at0100 [0x60]).writeBytes 0x2001 [0xAB] with ax := 0x2001 }
      (fun t => t.ax == 0xAB01) = true := rfl
theorem test_sto :
    stepsTo { at0100 [0x78] with cx := 0x1000, ax := 0xBEEF }
      (fun t => t.readByte 0x1000 == some 0xBE && t.readByte 0x1001 == none) = true := rfl
theorem test_add_wraps :
    stepsTo { at0100 [0x80, 0x01] with ax := 0xFFFF, bx := 2 }
      (fun t => t.ax == 1 && t.bx == 2) = true := rfl
theorem test_add_immediate :
    stepsTo { at0100 [0x80, 0x5B] with cx := 0x0010 }
      (fun t => t.cx == 0x0015) = true := rfl
theorem test_sub :
    stepsTo { at0100 [0x81, 0x01] with ax := 5, bx := 7 }
      (fun t => t.ax == 0xFFFE) = true := rfl
theorem test_mul_low_half :
    stepsTo { at0100 [0x82, 0x01] with ax := 0xFFFF, bx := 0xFFFF }
      (fun t => t.ax == 1) = true := rfl
theorem test_div :
    stepsTo { at0100 [0x83, 0x70] with ax := 0x0064 }
      (fun t => t.ax == 0x000E) = true := rfl
theorem test_div_by_zero :
    stops { at0100 [0x83, 0x01] with ax := 7 } (.divideByZero) = true := rfl
theorem test_mod :
    stepsTo { at0100 [0x84, 0x70] with ax := 0x0064 }
      (fun t => t.ax == 2) = true := rfl
theorem test_mod_by_zero :
    stops { at0100 [0x84, 0x01] with ax := 7 } (.divideByZero) = true := rfl
theorem test_neg :
    stepsTo { at0100 [0x88] with ax := 0x8000 }
      (fun t => t.ax == 0x8000) = true := rfl
theorem test_not :
    stepsTo { at0100 [0x8C] with ax := 0x00FF }
      (fun t => t.ax == 0xFF00) = true := rfl
theorem test_and :
    stepsTo { at0100 [0x91] with ax := 0x0FF0, bx := 0x00FF }
      (fun t => t.ax == 0x00F0 && t.bx == 0x00FF) = true := rfl
theorem test_ior :
    stepsTo { at0100 [0xAE] with sp := 0x8000, cx := 0x00FF }
      (fun t => t.sp == 0x80FF) = true := rfl
theorem test_xor :
    stepsTo { at0100 [0xB1] with ax := 0xFF00, bx := 0x0FF0 }
      (fun t => t.ax == 0xF0F0) = true := rfl
theorem test_rcl_discards :
    stepsTo { (at0100 [0xCF]).writeBytes 0x8010 [0x04, 0x00] with sp := 0x8000 }
      (fun t => t.sp == 0x8011 && t.pc == 0x0400) = true := rfl
theorem test_cal :
    stepsTo { at0100 [0xD0, 0x03, 0x0B] with sp := 0x9000 }
      (fun t => t.readByte 0x9000 == some 0x03 && t.readByte 0x8FFF == some 0x01 && t.sp == 0x8FFE && t.pc == 0x030B) = true := rfl
theorem test_rcr_sp :
    stepsTo { (at0100 [0xD7]).writeBytes 0x7000 [0x04, 0x03, 0x90, 0x00] with sp := 0x7000 }
      (fun t => t.sp == 0x9000 && t.pc == 0x0403) = true := rfl
theorem test_car :
    stepsTo { at0100 [0xD8, 0x05, 0x00] with ax := 0x7000, sp := 0x9000 }
      (fun t => t.readByte 0x7000 == some 0x01 && t.readByte 0x7001 == some 0x03 && t.readByte 0x7002 == some 0x90 &&
        t.readByte 0x7003 == some 0x00 && t.pc == 0x0500 && t.sp == 0x9000) = true := rfl
theorem test_scl_fills_with_carry :
    stepsTo { at0100 [0xDC, 0x30] with ax := 0x8001, rs := ⟨false, true, false⟩ }
      (fun t => t.ax == 0x000F && !t.rs.c) = true := rfl
theorem test_scl_by_fifteen :
    stepsTo { at0100 [0xDC, 0xF0] with ax := 0x0003 }
      (fun t => t.ax == 0x8000 && t.rs.c) = true := rfl
theorem test_scr_fills_with_carry :
    stepsTo { at0100 [0xDD, 0x44] with bx := 0x00F0, rs := ⟨false, true, false⟩ }
      (fun t => t.bx == 0xF00F && !t.rs.c) = true := rfl
theorem test_scr_by_sixteen :
    stops { at0100 [0xDD, 0x01] with bx := 16 } (.shiftAmount 16) = true := rfl
theorem test_irf :
    stepsTo { at0100 [0xDF, 0x80] with rf := 0x81, rs := ⟨false, true, true⟩ }
      (fun t => t.rs == ⟨true, true, true⟩ && t.rf == 0x81) = true := rfl
theorem test_laa :
    stepsTo { (at0100 [0xE3, 0xFF, 0xFF]).writeBytes 0xFFFF [0x90] with sp := 0x1234 }
      (fun t => t.sp == 0x9034) = true := rfl
theorem test_rol :
    stepsTo { at0100 [0xE4, 0x10] with ax := 0x8001 }
      (fun t => t.ax == 0x0003) = true := rfl
theorem test_ror :
    stepsTo { at0100 [0xE5, 0x10] with ax := 0x8001 }
      (fun t => t.ax == 0xC000) = true := rfl
theorem test_shl_by_itself :
    stepsTo { at0100 [0xE6, 0x0A] with cx := 3 }
      (fun t => t.cx == 0x0018) = true := rfl
theorem test_shr_fills_with_s :
    stepsTo { at0100 [0xE7, 0x20] with ax := 0x8004, rs := ⟨false, false, true⟩ }
      (fun t => t.ax == 0xE001) = true := rfl
theorem test_shr_by_zero :
    stepsTo { at0100 [0xE7, 0x01] with ax := 0x1234 }
      (fun t => t.ax == 0x1234) = true := rfl
theorem test_cli :
    stepsTo { at0100 [0xE8, 0x40] with rs := ⟨true, true, true⟩ }
      (fun t => t.rs == ⟨true, false, true⟩) = true := rfl
theorem test_jmp_back :
    stepsTo (at0100 [0xE9, 0x80])
      (fun t => t.pc == 0x0080) = true := rfl
theorem test_jiz :
    stepsTo { at0100 [0xEA, 0x06] with rs := ⟨true, false, false⟩ }
      (fun t => t.pc == 0x0106) = true := rfl
theorem test_jnz :
    stepsTo (at0100 [0xEB, 0xFC])
      (fun t => t.pc == 0x00FC) = true := rfl
theorem test_jlt :
    stepsTo (at0100 [0xEC, 0x08])
      (fun t => t.pc == 0x0102) = true := rfl
theorem test_jge :
    stepsTo (at0100 [0xED, 0x80])
      (fun t => t.pc == 0x0080) = true := rfl
theorem test_jof :
    stepsTo { at0100 [0xEE, 0x04] with rs := ⟨false, true, false⟩ }
      (fun t => t.pc == 0x0104) = true := rfl
theorem test_jnf :
    stepsTo { at0100 [0xEF, 0x04] with rs := ⟨false, true, false⟩ }
      (fun t => t.pc == 0x0102) = true := rfl
theorem test_ldi_wraps :
    stepsTo { (at0100 [0xF0, 0xF3]).writeBytes 0x0007 [0x77] with sp := 0xFFF8, ax := 0x0011 }
      (fun t => t.ax == 0x7711) = true := rfl
theorem test_sti :
    stepsTo { at0100 [0xF1, 0xEC] with sp := 0x8000, ax := 0x1234 }
      (fun t => t.readByte 0x800E == some 0x12) = true := rfl
theorem test_lri :
    stepsTo { (at0100 [0xF2, 0xCE]).writeBytes 0x8013 [0x5A] with sp := 0x8000, cx := 0x0010, ax := 0x00EE }
      (fun t => t.ax == 0x5AEE) = true := rfl
theorem test_sri :
    stepsTo { at0100 [0xF3, 0xF8] with sp := 0x8000, cx := 0x0010, ax := 0xBEEF }
      (fun t => t.readByte 0x8013 == some 0xBE) = true := rfl
theorem test_mvi :
    stepsTo (at0100 [0xF5, 0xFF, 0xFF])
      (fun t => t.bx == 0xFFFF && t.pc == 0x0103) = true := rfl
theorem test_inc :
    stepsTo { at0100 [0xF8] with ax := 0xFFFF }
      (fun t => t.ax == 0) = true := rfl
theorem test_dec :
    stepsTo (at0100 [0xFC])
      (fun t => t.ax == 0xFFFF) = true := rfl

/-! ### Boundaries (spec/95_test_vectors.md 2.12) -/

theorem test_interrupt_entered :
    stepsTo { at0100 [0x00] with ie := true, ax := 7, rs := ⟨true, false, false⟩, env := [0x04] }
      (fun t => t.rf == 0x04 && t.is == ⟨7, 0, 0, 0, 0x0100, ⟨true, false, false⟩, true⟩ && t.inh && t.ie && t.pc == 0 &&
        t.ax == 7) = true := rfl
theorem test_interrupt_disabled :
    stepsTo { at0100 [0x00] with env := [0x04] } (fun t => t.rf == 0x04 && t.pc == 0x0101) = true := rfl
theorem test_interrupt_not_nested :
    stepsTo { at0100 [0x00] with ie := true, inh := true, rf := 0x01, env := [0x04] }
      (fun t => t.rf == 0x05 && t.pc == 0x0101) = true := rfl
theorem test_sleep_stays :
    stepsTo { at0100 [0x00] with ie := true, sleep := true } (fun t => t.sleep && t.pc == 0x0100) = true := rfl
theorem test_sleep_wakes :
    stepsTo { at0100 [0x00] with ie := true, sleep := true, env := [0x01] }
      (fun t => !t.sleep && t.inh && t.is.pc == 0x0100 && t.pc == 0) = true := rfl
theorem test_stuck_stops : stops { at0100 [0x00] with stuck := true } .stuckAfterHlt = true := rfl
theorem test_unwritten_fetch_stops : stops (at0100 [0xD0, 0x03]) (.unwrittenByte 0x0102) = true := rfl
theorem test_fetch_wraps :
    stepsTo ({ State.reset with pc := 0xFFFE }.withFetchWord 24 0x34121F) (fun t => t.pc == 0x1234) = true := rfl
theorem test_withFetchWord_runs :
    stepsTo (State.reset.withFetchWord 8 0x06) (fun t => t.output == [.swapBuffers]) = true := rfl

/-! ### Witnesses: for each statement with hypotheses, a case that meets them all, one for each clause -/

/-- A state that runs an instruction at 0x0100 and holds bytes at the places the witnesses read. -/
def demo (bs : List Byte) : State :=
  { (at0100 bs).writeBytes 0x8000 [0x12, 0x34, 0x56, 0x78] with
    ax := 0x8000, bx := 0x0003, cx := 0x8001, sp := 0x7FFF, env := [0x00, 0x04] }

theorem witness_DecodeInvertsEncode :
    Instr.wellFormed (.add .cx (.imm 1)) = true ∧ Instr.wellFormed (.shr .sp (.imm 15)) = true ∧
      Instr.wellFormed (.sri .sp .sp .sp 3) = true := by decide
theorem witness_EncodeRestoresDecodedBytes : decode [0x51, 0xAA] = .ok (.mov .ax .bx, [0xAA]) := rfl
theorem witness_DecodedInstructionsAreWellFormed : decode [0x80, 0x58] = .ok (.add .cx (.imm 5), []) := rfl
theorem witness_IgnoredBitsAreIgnored :
    ((0x80#8 ∈ [0x80#8, 0x81#8, 0x82#8, 0x83#8, 0x84#8, 0xDC#8, 0xDD#8, 0xE4#8, 0xE5#8, 0xE6#8, 0xE7#8]) ∧
      16 ≤ (0x10#8).toNat ∧ (0x10#8).toNat / 4 = (0x13#8).toNat / 4) ∧
    (16 ≤ (0xFF#8).toNat ∧ (0xFF#8).toNat / 4 = (0xFC#8).toNat / 4) ∧ (0xFF#8).toNat / 32 = (0xE0#8).toNat / 32 ∧
    (let v := 15#4;
      Instr.shr .sp (.imm 15) ∈ [Instr.add .sp (.imm v), .sub .sp (.imm v), .mul .sp (.imm v), .div .sp (.imm v),
        .mod .sp (.imm v), .scl .sp (.imm v), .scr .sp (.imm v), .rol .sp (.imm v), .ror .sp (.imm v), .shl .sp (.imm v),
        .shr .sp (.imm v)]) := by
  decide
theorem witness_AssembleReadsStatement :
    Instr.wellFormed (.add .cx (.imm 1)) = true ∧
      Instr.statement (.add .cx (.imm 1)) = some ⟨"ADD", [.reg .cx, .num 1]⟩ ∧ Instr.statement .reserved07 = none :=
  ⟨rfl, rfl, rfl⟩
/-- The ends of a branch's range from 0x0010, across 0x0000, and the first address beyond. -/
theorem witness_AssembleReadsStatement_label :
    ((0xFF90#16).toNat : Int) = (((0x0010#16).toNat : Int) + (0x80#8).toInt) % 65536 ∧
      ((0x008F#16).toNat : Int) = (((0x0010#16).toNat : Int) + (0x7F#8).toInt) % 65536 ∧
      ∀ d : Byte, ((0x0090#16).toNat : Int) ≠ (((0x0010#16).toNat : Int) + d.toInt) % 65536 := by
  decide +kernel
theorem witness_IntEntersTheRoutine :
    (let s := { demo [0x01] with ie := true }; s.ie = true ∧ s.inh = false) ∧
    (let s := demo [0x01]; ¬(s.ie = true ∧ s.inh = false)) ∧
    (let s := { demo [0x01] with ie := true, inh := true }; ¬(s.ie = true ∧ s.inh = false)) := by decide +kernel
theorem witness_HltSleepsOrSticks :
    (let s := { demo [0x05] with ie := true }; s.stuck = false ∧ s.sleep = false ∧ s.ie = true ∧ s.inh = false) ∧
    (let s := demo [0x05]; s.stuck = false ∧ s.sleep = false ∧ ¬(s.ie = true ∧ s.inh = false)) := by decide +kernel
theorem witness_RetRestoresTheContext :
    ((demo [0x09]).interruptEntry 0x0100).is.valid = true ∧ (demo [0x09]).is.valid = false := by decide +kernel
theorem witness_PopLoadsTheRegister :
    (demo [0x14]).readByte ((demo [0x14]).sp + 1#16) = some 0x12 ∧
      (demo [0x14]).readByte ((demo [0x14]).sp + 2#16) = some 0x34 := by decide +kernel
theorem witness_PopUndoesPus : ∃ t, exec (.pus .sp) (demo [0x13]) = .next t := ⟨_, rfl⟩
theorem witness_LoadsWriteTheHighByte :
    (demo []).readByte ((demo []).get .ax) = some 0x12 ∧ (demo []).readByte 0x8003 = some 0x78 ∧
      (demo []).readByte ((demo []).get .sp + BitVec.ofNat 16 (1#4).toNat) = some 0x12 ∧
      (demo []).readByte ((demo []).get .sp + BitVec.ofNat 16 (0#4).toNat) = none ∧
      (demo []).readByte ((demo []).get .bx + (demo []).get .sp + BitVec.ofNat 16 (0#2).toNat) = some 0x56 ∧
      ({ demo [] with bx := 0 } : State).readByte
        (({ demo [] with bx := 0 } : State).get .bx + (demo []).get .sp + BitVec.ofNat 16 (3#2).toNat) = some 0x56 := by
  decide +kernel
theorem witness_StoresWriteTheHighByte :
    let list := [(Instr.sto .cx .ax, 0x8001#16, 1), (.sti .cx .ax 15, 0x8001#16 + BitVec.ofNat 16 (15#4).toNat, 2),
      (.sri .cx .bx .ax 3, 0x0003#16 + 0x8001#16 + BitVec.ofNat 16 (3#2).toNat, 2)]
    (Instr.sto .cx .ax, 0x8001#16, 1) ∈ list ∧ (Instr.sti .cx .ax 15, 0x8010#16, 2) ∈ list ∧
      (Instr.sri .cx .bx .ax 3, 0x8007#16, 2) ∈ list ∧ (demo []).get .cx = 0x8001#16 ∧ (demo []).get .bx = 0x0003#16 := by
  decide +kernel
theorem witness_DivAndModFollowOneDivMod :
    ((0x7FFF#16).toNat ≤ 0x7FFF ∧ 1 ≤ (1#16).toNat ∧ (1#16).toNat ≤ 0x7FFF) ∧
      ((0#16).toNat ≤ 0x7FFF ∧ 1 ≤ (0x7FFF#16).toNat ∧ (0x7FFF#16).toNat ≤ 0x7FFF) ∧
      State.operandNat { demo [] with bx := 0 } (.reg .bx) = 0 ∧ (demo []).operandNat (.imm 1) ≠ 0 := by decide +kernel
theorem witness_RclDiscardsAndReturns :
    (let s := demo []; s.readByte (s.sp + BitVec.ofNat 16 ((0#4).toNat + 1)) = some 0x12 ∧
      s.readByte (s.sp + BitVec.ofNat 16 ((0#4).toNat + 2)) = some 0x34) ∧
    (let s := { demo [] with sp := 0x7FF2 }; s.readByte (s.sp + BitVec.ofNat 16 ((15#4).toNat + 1)) = some 0x56 ∧
      s.readByte (s.sp + BitVec.ofNat 16 ((15#4).toNat + 2)) = some 0x78) := by decide +kernel
theorem witness_RcrRestoresTheContext : (demo []).holds ((demo []).get .ax) [0x12, 0x34, 0x56, 0x78] :=
  ⟨rfl, rfl, rfl, rfl, trivial⟩
/-- The callee has pushed AX, two bytes of locals. -/
theorem witness_RclReturnsFromCal :
    ∃ t u : State, exec (.cal 0x0200) (demo []) = .next t ∧ exec (.pus .ax) t = .next u ∧
      u.readByte ((demo []).sp - 1#16) = t.readByte ((demo []).sp - 1#16) ∧
      u.readByte (demo []).sp = t.readByte (demo []).sp ∧ u.sp = t.sp - BitVec.ofNat 16 (2#4).toNat :=
  ⟨_, _, rfl, rfl, rfl, rfl, rfl⟩
/-- The callee has stored a byte at 0x0003. -/
theorem witness_RcrReturnsFromCar :
    ∃ t u : State, exec (.car .ax 0x0200) (demo []) = .next t ∧ exec (.sto .bx .ax) t = .next u ∧
      u.get .ax = (demo []).get .ax ∧
      ∀ x, x ∈ [(demo []).get .ax, (demo []).get .ax + 1#16, (demo []).get .ax + 2#16, (demo []).get .ax + 3#16] →
        u.readByte x = t.readByte x := by
  refine ⟨_, _, rfl, rfl, rfl, fun x h => ?_⟩
  simp only [List.mem_cons, List.not_mem_nil, or_false] at h
  rcases h with rfl | rfl | rfl | rfl <;> rfl
theorem witness_ShiftsWithCarry :
    State.operandNat { demo [] with bx := 0 } (.reg .bx) = 0 ∧ (demo []).operandNat (.imm 1) = 1 ∧
      (demo []).operandNat (.imm 15) = 15 ∧ 16 ≤ State.operandNat { demo [] with bx := 16 } (.reg .bx) := by
  decide +kernel
theorem witness_PlainShiftsAndRotates :
    let list := [Instr.rol .ax (.imm 1), .ror .ax (.imm 1), .shl .ax (.imm 1), .shr .ax (.imm 1)]
    Instr.rol .ax (.imm 1) ∈ list ∧ Instr.ror .ax (.imm 1) ∈ list ∧ Instr.shl .ax (.imm 1) ∈ list ∧
      Instr.shr .ax (.imm 1) ∈ list ∧ (demo []).operandNat (.imm 1) = 1 ∧ (demo []).operandNat (.imm 15) = 15 ∧
      State.operandNat { demo [] with bx := 0 } (.reg .bx) = 0 ∧ 16 ≤ (demo []).operandNat (.reg .ax) := by
  decide +kernel
theorem witness_RolIsRorOfTheRest : (1#4).toNat + (15#4).toNat = 16 ∧ (8#4).toNat + (8#4).toNat = 16 := by decide
theorem witness_ReservedBytesStop :
    (0x0F#8 = 0x0C#8 + (3#2).setWidth 8) ∧ (0x1B#8 = 0x18#8 + (3#2).setWidth 8) ∧
      (0x1D#8 = 0x1C#8 + (1#1).setWidth 8) ∧ (0x23#8 = 0x20#8 + (3#2).setWidth 8) ∧
      (0x4F#8 = 0x40#8 + (15#4).setWidth 8) ∧ (0x87#8 = 0x86#8 + (1#1).setWidth 8) ∧
      (0xD3#8 = 0xD2#8 + (1#1).setWidth 8) := by decide
theorem witness_StepRunsTheDecodedInstruction :
    (demo [0x80, 0x58]).Runs ∧ (demo [0x80, 0x58]).holds (demo [0x80, 0x58]).pc [0x80, 0x58] ∧
      decode [0x80, 0x58] = .ok (.add .cx (.imm 5), []) ∧ Instr.wellFormed (.add .cx (.imm 5)) = true :=
  ⟨⟨rfl, rfl, rfl⟩, ⟨rfl, rfl, trivial⟩, rfl, rfl⟩
theorem witness_StepExecutesEncodedInstruction :
    Instr.wellFormed (.ljp 0x1234) = true ∧ (demo [0x1F, 0x12, 0x34]).Runs ∧
      (demo [0x1F, 0x12, 0x34]).holds (demo [0x1F, 0x12, 0x34]).pc (encode (.ljp 0x1234)) :=
  ⟨rfl, ⟨rfl, rfl, rfl⟩, ⟨rfl, rfl, rfl, trivial⟩⟩
theorem witness_StepEntersADueInterrupt :
    let s := { demo [0x00] with ie := true, sleep := true, env := [0x80] }
    s.stuck = false ∧ s.ie = true ∧ s.inh = false ∧ 0x80#8 = s.rf ||| s.env.headD 0x00#8 ∧ 0x80#8 ≠ 0x00#8 := by
  decide +kernel
theorem witness_SleepChangesOnlyTheInterruptFlags :
    (let s := { demo [] with sleep := true };
      s.stuck = false ∧ s.sleep = true ∧ 0x00#8 = s.rf ||| s.env.headD 0x00#8 ∧ s.ie = false) ∧
    (let s := { demo [] with sleep := true, ie := true, inh := true, env := [0x01] };
      s.stuck = false ∧ s.sleep = true ∧ 0x01#8 = s.rf ||| s.env.headD 0x00#8 ∧ s.inh = true) ∧
    (let s := { demo [] with sleep := true, ie := true };
      s.stuck = false ∧ s.sleep = true ∧ 0x00#8 = s.rf ||| s.env.headD 0x00#8 ∧ s.ie = true ∧ s.inh = false) := by
  decide +kernel
theorem witness_StoreIsSeenByTheNextFetch :
    (∃ t, exec (.sto .ax .bx) { demo [] with bx := 0x0900 } = .next t ∧
      (0x8000#16, 0x09#8) ∈ State.stored { demo [] with bx := 0x0900 } (.sto .ax .bx) ∧
      ([] : List Byte).length + 1 = fetchLength 0x09#8 ∧ State.fetch { t with pc := 0x8000 } = .ok [0x09]) ∧
    (∃ t, exec (.sti .ax .bx 0) { demo [] with bx := 0x1F00 } = .next t ∧
      (0x8000#16, 0x1F#8) ∈ State.stored { demo [] with bx := 0x1F00 } (.sti .ax .bx 0) ∧
      [0x34#8, 0x56#8].length + 1 = fetchLength 0x1F#8 ∧ t.holds (0x8000#16 + 1#16) [0x34, 0x56]) ∧
    (∃ t, exec (.sri .ax .bx .cx 3) (demo []) = .next t ∧
      (0x8006#16, 0x80#8) ∈ State.stored (demo []) (.sri .ax .bx .cx 3)) ∧
    (∃ t, exec (.pus .ax) (demo []) = .next t ∧ (0x7FFE#16, 0x80#8) ∈ State.stored (demo []) (.pus .ax) ∧
      State.fetch { t with pc := 0x7FFE } = .ok [0x80, 0x00] ∧ [0x80#8, 0x00#8][1]? = some 0x00#8) ∧
    (∃ t, exec (.cal 0x0200) (demo []) = .next t ∧ (0x7FFF#16, 0x03#8) ∈ State.stored (demo []) (.cal 0x0200)) ∧
    (∃ t, exec (.car .ax 0x0200) (demo []) = .next t ∧
      (0x8003#16, 0xFF#8) ∈ State.stored (demo []) (.car .ax 0x0200)) := by
  refine ⟨⟨_, rfl, ?_, rfl, rfl⟩, ⟨_, rfl, ?_, rfl, rfl, rfl, trivial⟩, ⟨_, rfl, ?_⟩, ⟨_, rfl, ?_, rfl, rfl⟩, ⟨_, rfl, ?_⟩,
    ⟨_, rfl, ?_⟩⟩ <;> decide
theorem witness_UnwrittenBytesStop_loads :
    (demo []).readByte 0x7FFF = none ∧ (demo []).get .sp = 0x7FFF#16 ∧
      (demo []).get .sp + BitVec.ofNat 16 (0#4).toNat = 0x7FFF#16 ∧
      State.get { demo [] with cx := 0 } .sp + State.get { demo [] with cx := 0 } .cx +
        BitVec.ofNat 16 (0#2).toNat = 0x7FFF#16 := by decide +kernel
/-- The last byte of a three-byte instruction at 0xFFFE, 0x0000, is the one that holds no value; and the first byte. -/
theorem witness_UnwrittenBytesStop_fetch :
    (let s := ({ State.reset with pc := 0xFFFE } : State).writeBytes 0xFFFE [0x1F, 0x12];
      s.Runs ∧ s.holds s.pc [0x1F, 0x12] ∧ 2 < fetchLength 0x1F ∧ s.pc + BitVec.ofNat 16 2 = 0x0000 ∧
      s.readByte 0x0000 = none) ∧
    (State.reset.Runs ∧ State.reset.holds State.reset.pc [] ∧ State.reset.pc + BitVec.ofNat 16 0 = 0x0000 ∧
      State.reset.readByte 0x0000 = none) :=
  ⟨⟨⟨rfl, rfl, rfl⟩, ⟨rfl, rfl, trivial⟩, by decide, rfl, rfl⟩, ⟨rfl, rfl, rfl⟩, trivial, rfl, rfl⟩
/-- The first byte, and the last byte, of POP, RCL and RCR: 0x7FFF and 0x8004 hold no value. -/
theorem witness_UnwrittenBytesStop_words :
    (demo []).readByte 0x7FFF = none ∧ (demo []).readByte 0x8004 = none ∧
      State.sp { demo [] with sp := 0x7FFE } + BitVec.ofNat 16 (1 + 0) = 0x7FFF ∧
      ((demo []).holds (0x8002#16 + 1#16) [0x78] ∧ 0x8002#16 + BitVec.ofNat 16 (1 + 1) = 0x8004) ∧
      0x7FFE#16 + BitVec.ofNat 16 ((0#4).toNat + 1 + 0) = 0x7FFF ∧
      ((demo []).holds (0x7FF3#16 + BitVec.ofNat 16 ((15#4).toNat + 1)) [0x78] ∧
        0x7FF3#16 + BitVec.ofNat 16 ((15#4).toNat + 1 + 1) = 0x8004) ∧
      ((demo []).get .sp + BitVec.ofNat 16 0 = 0x7FFF) ∧
      ((demo []).holds ((demo []).get .cx) [0x34, 0x56, 0x78] ∧ (demo []).get .cx + BitVec.ofNat 16 3 = 0x8004) :=
  ⟨rfl, rfl, rfl, ⟨⟨rfl, trivial⟩, rfl⟩, rfl, ⟨⟨rfl, trivial⟩, rfl⟩, rfl, ⟨rfl, rfl, rfl, trivial⟩, rfl⟩
theorem witness_OnlyUnspecifiedCasesStop :
    exec .int (demo []) = .fault .intNotAccepted ∧ exec .ret (demo []) = .fault .retBeforeEntry ∧
      exec (.div .ax (.reg .bx)) { demo [] with bx := 0 } = .fault .divideByZero ∧
      exec (.scl .ax (.reg .ax)) (demo []) = .fault (.shiftAmount 0x8000) ∧
      exec (.ror .ax (.reg .ax)) (demo []) = .fault (.shiftAmount 0x8000) ∧
      exec (.laa .ax 0x7FFF) (demo []) = .fault (.unwrittenByte 0x7FFF) ∧
      exec (.rcr .sp) (demo []) = .fault (.unwrittenByte 0x7FFF) ∧
      exec .reserved07 (demo []) = .fault (.reservedOpcode 0x07) := ⟨rfl, rfl, rfl, rfl, rfl, rfl, rfl, rfl⟩
theorem witness_EndOfRunIsAFixedPoint :
    ((demo [0xE9, 0x00]).EndOfRun ∧ (demo [0xE9, 0x00]).ie = false) ∧
      State.EndOfRun { demo [0xE9, 0x00] with ie := true, inh := true } ∧
      (State.EndOfRun { demo [0xE9, 0x00] with ie := true, env := [0x00] } ∧ (demo [0xE9, 0x00]).inh = false ∧
        (demo [0xE9, 0x00]).rf = 0x00#8) :=
  ⟨⟨⟨rfl, rfl, ⟨rfl, rfl, trivial⟩, .inl rfl⟩, rfl⟩, ⟨rfl, rfl, ⟨rfl, rfl, trivial⟩, .inr (.inl rfl)⟩,
    ⟨⟨rfl, rfl, ⟨rfl, rfl, trivial⟩, .inr (.inr fun e h => by simpa using h)⟩, rfl, rfl⟩⟩
/-- DEI, HLT, `E9 00`: the machine HLT leaves stuck is no end of run (R357). -/
theorem test_stuck_is_no_end_of_run :
    ∃ t, exec .hlt (demo [0x05, 0xE9, 0x00]) = .next t ∧ t.holds t.pc [0xE9, 0x00] ∧ ¬ t.EndOfRun :=
  ⟨_, rfl, ⟨rfl, rfl, trivial⟩, fun h => nomatch h.1⟩
theorem witness_NothingReentersTheRoutine :
    (let s := { demo [0x00] with inh := true }; s.inh = true ∧ ∃ t, step s = .next t) ∧
      (let s := { demo [0x04] with inh := true }; s.inh = true ∧ ∃ t, step s = .next t) := ⟨⟨rfl, _, rfl⟩, ⟨rfl, _, rfl⟩⟩
theorem witness_InterruptIsInvisibleToTheProgram :
    ∃ t, Sys2Proof.core.run 1 (((demo [0x00]).writeByte 0x0000 0x00).interruptEntry 0x0100) = .next t ∧
      ∀ j u, j ≤ 1 → Sys2Proof.core.run j (((demo [0x00]).writeByte 0x0000 0x00).interruptEntry 0x0100) = .next u →
        State.inh u = true := by
  refine ⟨_, rfl, fun j u hj h => ?_⟩
  match j, hj with
  | 0, _ => injection h with h; rw [← h]; rfl
  | 1, _ => injection h with h; rw [← h]; rfl
theorem witness_ControlStateIsWrittenOnlyBy :
    (∃ t, exec .eni (demo []) = .next t) ∧ (∃ t, exec .dei (demo []) = .next t) ∧ (∃ t, exec .rst (demo []) = .next t) ∧
      (∃ t, exec .hlt (demo []) = .next t) ∧ (∃ t, exec .int { demo [] with ie := true } = .next t) ∧
      (∃ t, exec .ret ((demo []).interruptEntry 0x0100) = .next t) ∧ (∃ t, exec .nop (demo []) = .next t) :=
  ⟨⟨_, rfl⟩, ⟨_, rfl⟩, ⟨_, rfl⟩, ⟨_, rfl⟩, ⟨_, rfl⟩, ⟨_, rfl⟩, ⟨_, rfl⟩⟩
theorem witness_RfIsOnlyClearedByInstructions :
    (∃ t, exec .eni { demo [] with rf := 0x81 } = .next t) ∧ (∃ t, exec .nop { demo [] with rf := 0x81 } = .next t) :=
  ⟨⟨_, rfl⟩, ⟨_, rfl⟩⟩
theorem witness_FlagsChangeOnlyAsTheTableSays :
    (∃ t, exec .cmp (demo []) = .next t) ∧ (∃ t, exec (.irf 0x80) (demo []) = .next t) ∧
      (∃ t, exec (.cli true true true) (demo []) = .next t) ∧ (∃ t, exec (.add .ax (.imm 1)) (demo []) = .next t) ∧
      (∃ t, exec (.mov .ax .bx) (demo []) = .next t) := ⟨⟨_, rfl⟩, ⟨_, rfl⟩, ⟨_, rfl⟩, ⟨_, rfl⟩, ⟨_, rfl⟩⟩
theorem witness_MemoryIsWrittenOnlyByStores :
    (∃ t, exec (.sto .ax .bx) (demo []) = .next t) ∧ (∃ t, exec (.lod .ax .cx) (demo []) = .next t) :=
  ⟨⟨_, rfl⟩, ⟨_, rfl⟩⟩
theorem witness_PcAdvancesByTheLength :
    (∃ t, exec (.jmp 0) (demo []) = .next t) ∧ (∃ t, exec (.mvi .ax 1) (demo []) = .next t) := ⟨⟨_, rfl⟩, ⟨_, rfl⟩⟩
theorem witness_RegistersChangeOnlyAsDestinations :
    (∃ t, exec (.pop .ax) (demo []) = .next t) ∧ (∃ t, exec (.rcl 0) (demo []) = .next t) ∧
      (∃ t, exec (.ldi .bx .ax 3) (demo []) = .next t) ∧ (∃ t, exec .cmp (demo []) = .next t) :=
  ⟨⟨_, rfl⟩, ⟨_, rfl⟩, ⟨_, rfl⟩, ⟨_, rfl⟩⟩
theorem witness_ModelFieldsMoveOnlyAsNamed :
    (∃ t, exec .swp (demo []) = .next t) ∧ (∃ t, exec (.inc .sp) (demo []) = .next t) := ⟨⟨_, rfl⟩, ⟨_, rfl⟩⟩
theorem witness_StepKeepsTheInvariant :
    (demo [0xF8]).Inv ∧ (∃ t, step (demo [0xF8]) = .next t) ∧
      (let s := (demo [0x00]).interruptEntry 0x0100; s.Inv ∧ s.inh = true) ∧
      State.Inv { demo [0x00] with sleep := true, ie := true } := by
  refine ⟨?_, ⟨_, rfl⟩, ⟨?_, rfl⟩, ?_⟩
  all_goals unfold State.Inv; decide +kernel
theorem witness_InvariantHoldsAfterReset : Memory.wf [(0, 0x00), (0xFFFF, 0x12)] = true := by decide
theorem witness_PowerOnLeavesTheResetState :
    ∃ s : State, s = State.powerOn [(0x0000, 0x09)] (drawnResetValues 0) [0x01] := ⟨_, rfl⟩


end Sys2Proof.Tests
end

section
/-! PROOFS. What an instruction that goes on can do, said once: the instructions fall into a few kinds, every kind has
one shape of next state, and the frame of a kind (what its shape leaves unchanged) is read off the shape. -/

namespace Sys2Proof.Machine

/-! ### INT and RET go on in one case only (spec/40_control.md) -/

/-- INT goes on only where it is accepted, and then enters the routine (R131). -/
theorem exec_int_next {s t : State} (h : exec .int s = .next t) :
    s.inh = false ∧ t = s.interruptEntry (s.pc + 1#16) := by
  by_cases hc : (s.ie && !s.inh) = true
  · have hs : exec .int s = .next (s.interruptEntry (s.pc + 1#16)) := if_pos hc
    rw [hs] at h
    simp only [Bool.and_eq_true, Bool.not_eq_true'] at hc
    exact ⟨hc.2, (Host.Outcome.next.inj h).symm⟩
  · have hs : exec .int s = .fault .intNotAccepted := if_neg hc
    rw [hs] at h
    nomatch h

/-- RET with IS filled is the return from the routine (R138). -/
theorem exec_ret_valid {s : State} (h : s.is.valid = true) : exec .ret s = .next s.interruptReturn := if_pos h

/-- RET goes on only where IS has been filled (R138). -/
theorem exec_ret_next {s t : State} (h : exec .ret s = .next t) : s.is.valid = true ∧ t = s.interruptReturn := by
  by_cases hv : s.is.valid = true
  · rw [exec_ret_valid hv] at h
    exact ⟨hv, (Host.Outcome.next.inj h).symm⟩
  · have hs : exec .ret s = .fault .retBeforeEntry := if_neg hv
    rw [hs] at h
    nomatch h

/-! ### The instructions whose meaning is an operation over computed operands -/

theorem exec_pop (r : Reg) (s : State) :
    exec (.pop r) s = s.pop16 fun v t => .next ((t.set r v).advance 1) := rfl

theorem exec_rcl (v : BitVec 4) (s : State) :
    exec (.rcl v) s = State.pop16 { s with sp := s.sp + zext4 v } fun a t => .next (t.jump a) := rfl

theorem exec_rcr (r : Reg) (s : State) :
    exec (.rcr r) s =
      s.withWord (s.get r) fun p => s.withWord (s.get r + 2#16) fun sp => .next ({ s with sp := sp }.jump p) := rfl

theorem exec_scl (m : Reg) (o : A2Operand) (s : State) :
    exec (.scl m o) s = s.shiftCarry m o (fun a n => sclValue a n s.rs.c) sclCarry := rfl

theorem exec_scr (m : Reg) (o : A2Operand) (s : State) :
    exec (.scr m o) s = s.shiftCarry m o (fun a n => fillRight a n s.rs.c) scrCarry := rfl

theorem exec_shr (m : Reg) (o : A2Operand) (s : State) :
    exec (.shr m o) s = s.shift m o fun a n => fillRight a n s.rs.s := rfl

theorem exec_ldi (m l : Reg) (v : BitVec 4) (s : State) :
    exec (.ldi m l v) s = s.loadHigh m (s.get l + BitVec.ofNat 16 v.toNat) 2 := by
  rw [BitVec.ofNat_toNat]; rfl

theorem exec_lri (m d l : Reg) (v : BitVec 2) (s : State) :
    exec (.lri m d l v) s = s.loadHigh m (s.get d + s.get l + BitVec.ofNat 16 v.toNat) 2 := by
  rw [BitVec.ofNat_toNat]; rfl

/-! ### The kinds of instructions -/

/-- The kinds of instructions by the shape of the next state; a register is the destination. -/
inductive Kind where
  /-- The reserved and unassigned rows, which never go on (R96, R97). -/
  | reserved
  /-- INT ENI DEI RST HLT SWP RET: each writes the system state in a way of its own. -/
  | system
  /-- NOP. -/
  | idle
  /-- CMP CMU IRF CLI. -/
  | flags
  /-- MOV, MVI and the loads. -/
  | move (m : Reg)
  /-- The draw-class instructions (R28). -/
  | drawing (m : Reg)
  /-- The jumps and the local branches, taken or not. -/
  | jump
  /-- STO STI SRI. -/
  | store
  /-- PUS. -/
  | push
  /-- POP. -/
  | pop (m : Reg)
  /-- CAL. -/
  | call
  /-- CAR. -/
  | callContext
  /-- RCL and RCR. -/
  | comeBack

/-- The kind of each instruction. -/
def kind : Instr → Kind
  | .reserved07 | .reserved0B | .reserved0C _ | .reserved18 _ | .reserved1C _ | .reserved1E | .unassigned20 _
  | .reserved40 _ | .reserved85 | .reserved86 _ | .unassignedD1 | .unassignedD2 _ | .reservedDE => .reserved
  | .int | .eni | .dei | .rst | .hlt | .swp | .ret => .system
  | .nop => .idle
  | .cmp | .cmu | .irf _ | .cli _ _ _ => .flags
  | .mov m _ | .lod m _ | .laa m _ | .ldi m _ _ | .lri m _ _ _ | .mvi m _ => .move m
  | .add m _ | .sub m _ | .mul m _ | .div m _ | .mod m _ | .neg m | .not m | .and m _ | .ior m _ | .xor m _
  | .scl m _ | .scr m _ | .rol m _ | .ror m _ | .shl m _ | .shr m _ | .inc m | .dec m => .drawing m
  | .ljp _ | .jmr _ | .jzr _ | .jnr _ | .jlr _ | .jgr _ | .jor _ | .jur _
  | .jmp _ | .jiz _ | .jnz _ | .jlt _ | .jge _ | .jof _ | .jnf _ => .jump
  | .sto _ _ | .sti _ _ _ | .sri _ _ _ _ => .store
  | .pus _ => .push
  | .pop m => .pop m
  | .cal _ => .call
  | .car _ _ => .callContext
  | .rcl _ | .rcr _ => .comeBack

/-- The shape of the next state of each kind, for an instruction of `n` bytes started in `s`. Values, addresses and
targets are left open: frames do not depend on them. -/
inductive Effect (n : Nat) (s : State) : Kind → State → Prop
  | system (t : State) (hmem : t.mem = s.mem) (henv : t.env = s.env) : Effect n s .system t
  | idle : Effect n s .idle (s.advance n)
  | flags (f : Flags) : Effect n s .flags ({ s with rs := f }.advance n)
  | move (m : Reg) (v : Word) : Effect n s (.move m) ((s.set m v).advance n)
  | drawing (m : Reg) (v : Word) (f : Flags) (d : Nat) (hd : s.draws < d) :
    Effect n s (.drawing m) ({ s.set m v with rs := f, draws := d }.advance n)
  | jump (p : Word) : Effect n s .jump (s.jump p)
  | store (a : Word) (b : Byte) : Effect n s .store ((s.writeByte a b).advance n)
  | push (v : Word) : Effect n s .push ((s.push16 v).advance n)
  | pop (m : Reg) (v p : Word) : Effect n s (.pop m) (({ s with sp := p }.set m v).advance n)
  | call (v p : Word) : Effect n s .call ((s.push16 v).jump p)
  | callContext (a v b w p : Word) : Effect n s .callContext (((s.writeWord a v).writeWord b w).jump p)
  | comeBack (q p : Word) : Effect n s .comeBack ({ s with sp := q }.jump p)

/-! ### Every instruction that goes on has the effect of its kind -/

section
variable {n : Nat} {s t u : State} {k : Kind}

theorem Effect.of_next (h : (.next u : Result) = .next t) (e : Effect n s k u) : Effect n s k t :=
  Host.Outcome.next.inj h ▸ e

/-- A conditional jump is a jump, to the next instruction where the condition fails (R153, R266). -/
theorem Effect.jumpIf (s : State) (c : Bool) (p : Word) (l : Nat) : Effect n s .jump (s.jumpIf c p l) := by
  cases c
  · exact .jump (s.pc + BitVec.ofNat 16 l)
  · exact .jump p

theorem Effect.drawFlags (s : State) (m : Reg) (v : Word) :
    Effect n s (.drawing m) ((s.set m v).drawFlags.advance n) := .drawing m v _ _ (by simp)

theorem Effect.of_loadHigh {m : Reg} {a : Word} (h : s.loadHigh m a n = .next t) : Effect n s (.move m) t := by
  obtain ⟨b, -, rfl⟩ := State.loadHigh_next h
  exact .move m _

theorem Effect.of_divide {m : Reg} {o : A2Operand} {pick : Word × Word → Word} (h : s.divide m o pick = .next t) :
    Effect 2 s (.drawing m) t := by
  obtain ⟨-, rfl⟩ := State.divide_next h
  exact .drawFlags s m _

theorem Effect.of_shift {m : Reg} {o : A2Operand} {f : Word → Nat → Word} (h : s.shift m o f = .next t) :
    Effect 2 s (.drawing m) t := by
  obtain ⟨-, rfl⟩ := State.shift_next h
  exact .drawFlags s m _

theorem Effect.of_shiftCarry {m : Reg} {o : A2Operand} {f : Word → Nat → Word} {g : Word → Nat → Bool}
    (h : s.shiftCarry m o f g = .next t) : Effect 2 s (.drawing m) t := by
  rcases State.shiftCarry_next h with ⟨-, rfl⟩ | ⟨-, -, rfl⟩
  · simpa using Effect.drawFlags (n := 2) s m (s.get m)
  · exact .drawing m _ _ _ (by simp)

theorem Effect.of_pop {m : Reg} (h : exec (.pop m) s = .next t) : Effect 1 s (.pop m) t := by
  rw [exec_pop] at h
  obtain ⟨_, _, -, -, h⟩ := State.pop16_next h
  exact .of_next h (.pop m _ _)

theorem Effect.of_rcl {v : BitVec 4} (h : exec (.rcl v) s = .next t) : Effect n s .comeBack t := by
  rw [exec_rcl] at h
  obtain ⟨_, _, -, -, h⟩ := State.pop16_next h
  exact .of_next h (.comeBack _ _)

theorem Effect.of_rcr {r : Reg} (h : exec (.rcr r) s = .next t) : Effect n s .comeBack t := by
  rw [exec_rcr] at h
  obtain ⟨_, _, -, -, h⟩ := State.withWord_next h
  obtain ⟨_, _, -, -, h⟩ := State.withWord_next h
  exact .of_next h (.comeBack _ _)

end

/-- Everything an instruction that goes on can do: the effect of its kind, with PC advanced by the length of its
encoding wherever the kind advances. -/
theorem exec_effect {i : Instr} {s t : State} (h : exec i s = .next t) :
    Effect (encode i).length s (kind i) t := by
  cases i
  case reserved07 | reserved0B | reserved0C | reserved18 | reserved1C | reserved1E | unassigned20 | reserved40
    | reserved85 | reserved86 | unassignedD1 | unassignedD2 | reservedDE => nomatch h
  case int => obtain ⟨-, rfl⟩ := exec_int_next h; exact .system _ rfl rfl
  case ret => obtain ⟨-, rfl⟩ := exec_ret_next h; exact .system _ rfl rfl
  case eni | dei | rst | hlt | swp => exact .of_next h (.system _ rfl rfl)
  case nop => exact .of_next h .idle
  case cmp | cmu | irf | cli => exact .of_next h (.flags _)
  case mov | mvi => exact .of_next h (.move _ _)
  case lod | laa | ldi | lri => exact .of_loadHigh h
  case add | sub | mul | neg | not | and | ior | xor | inc | dec => exact .of_next h (.drawFlags s _ _)
  case div | mod => exact .of_divide h
  case rol | ror | shl => exact .of_shift h
  case shr => rw [exec_shr] at h; exact .of_shift h
  case scl => rw [exec_scl] at h; exact .of_shiftCarry h
  case scr => rw [exec_scr] at h; exact .of_shiftCarry h
  case ljp | jmr | jmp => exact .of_next h (.jump _)
  case jzr | jnr | jlr | jgr | jor | jur | jiz | jnz | jlt | jge | jof | jnf => exact .of_next h (.jumpIf s _ _ _)
  case sto | sti | sri => exact .of_next h (.store _ _)
  case pus => exact .of_next h (.push _)
  case pop => exact .of_pop h
  case cal => exact .of_next h (.call _ _)
  case car => exact .of_next h (.callContext _ _ _ _ _)
  case rcl => exact .of_rcl h
  case rcr => exact .of_rcr h

/-! ### The frames of the kinds

The frame lemmas of the shared operations (Laws/State.lean) give the frame of each shape. -/

/-- IE, INH, SLEEP, IS and RF, the events emitted and the mark `stuck` are as they were. -/
structure State.SameControl (s t : State) : Prop where
  ie : t.ie = s.ie
  inh : t.inh = s.inh
  sleep : t.sleep = s.sleep
  is : t.is = s.is
  rf : t.rf = s.rf
  output : t.output = s.output
  stuck : t.stuck = s.stuck

/-- Whether the kind leaves all three flags alone (R28). -/
def Kind.keepsFlags : Kind → Bool
  | .system | .flags | .drawing _ => false
  | _ => true

/-- Whether the kind leaves the draw counter alone. -/
def Kind.keepsDraws : Kind → Bool
  | .system | .drawing _ => false
  | _ => true

/-- Whether the kind always goes on with the next instruction in memory (R25). -/
def Kind.advances : Kind → Bool
  | .idle | .flags | .move _ | .drawing _ | .store | .push | .pop _ => true
  | _ => false

/-- The general registers a kind may write (R22). -/
def Kind.mayWrite (q : Reg) : Kind → Prop
  | .system => True
  | .move m | .drawing m => q = m
  | .pop m => q = m ∨ q = .sp
  | .push | .call | .comeBack => q = .sp
  | _ => False

/-- Only SP differs after SP alone is written. -/
theorem State.get_with_sp (s : State) {q : Reg} (p : Word) (h : q ≠ .sp) :
    State.get { s with sp := p } q = s.get q := by
  cases q with
  | sp => exact absurd rfl h
  | _ => rfl

theorem State.get_push16 (s : State) {q : Reg} (v : Word) (h : q ≠ .sp) : (s.push16 v).get q = s.get q := by
  cases q with
  | sp => exact absurd rfl h
  | _ => rfl

section
variable {n : Nat} {s t : State} {k : Kind}

theorem Effect.env_eq (e : Effect n s k t) : t.env = s.env := by
  cases e with
  | system _ _ henv => exact henv
  | _ => simp

theorem Effect.sameControl (e : Effect n s k t) (hk : k ≠ .system) : s.SameControl t := by
  cases e with
  | system => exact absurd rfl hk
  | _ => constructor <;> simp

theorem Effect.rs_eq (e : Effect n s k t) (hk : k.keepsFlags = true) : t.rs = s.rs := by
  cases e with
  | system | flags | drawing => nomatch hk
  | _ => simp

theorem Effect.draws_eq (e : Effect n s k t) (hk : k.keepsDraws = true) : t.draws = s.draws := by
  cases e with
  | system | drawing => nomatch hk
  | _ => simp

theorem Effect.draws_lt {m : Reg} (e : Effect n s (.drawing m) t) : s.draws < t.draws := by
  cases e with
  | drawing _ _ _ _ hd => exact hd

theorem Effect.pc_eq (e : Effect n s k t) (hk : k.advances = true) : t.pc = s.pc + BitVec.ofNat 16 n := by
  cases e with
  | system | jump | call | callContext | comeBack => nomatch hk
  | _ => rfl

/-- A general register is unchanged unless the kind may write it (R22). -/
theorem Effect.get_eq (e : Effect n s k t) (q : Reg) (hq : ¬ k.mayWrite q) : t.get q = s.get q := by
  cases e with
  | system => exact absurd trivial hq
  | idle => exact s.get_advance n q
  | flags f => cases q <;> rfl
  | move m v => rw [State.get_advance, State.get_set_other s m q v hq]
  | drawing m v f d =>
    have hset : (s.set m v).get q = s.get q := State.get_set_other s m q v hq
    rw [← hset]
    cases q <;> rfl
  | jump p => exact s.get_jump p q
  | store a b => rw [State.get_advance, State.get_writeByte]
  | push v => rw [State.get_advance, State.get_push16 s v hq]
  | pop m v p =>
    obtain ⟨hm, hsp⟩ := not_or.1 hq
    rw [State.get_advance, State.get_set_other _ m q v hm, State.get_with_sp s p hsp]
  | call v p => rw [State.get_jump, State.get_push16 s v hq]
  | callContext a v b w p => rw [State.get_jump, State.get_writeWord, State.get_writeWord]
  | comeBack sp p => rw [State.get_jump, State.get_with_sp s sp hq]

theorem Effect.mayWrite_or_get_eq (e : Effect n s k t) (q : Reg) : k.mayWrite q ∨ t.get q = s.get q :=
  Classical.or_iff_not_imp_left.2 (e.get_eq q)

end

/-! ### The statements about every instruction (spec/10_state.md) -/

/-- Settles O51: every kind but `system` leaves the control state alone, and the seven system instructions are
looked at one by one. -/
theorem controlStateIsWrittenOnlyBy : Obligations.ControlStateIsWrittenOnlyBy := by
  intro i s t h
  cases i
  case int => obtain ⟨-, rfl⟩ := exec_int_next h; exact ⟨rfl, rfl, rfl, rfl⟩
  case ret => obtain ⟨-, rfl⟩ := exec_ret_next h; exact ⟨rfl, rfl, rfl, rfl⟩
  case eni | dei | swp => obtain rfl := Host.Outcome.next.inj h; exact ⟨rfl, rfl, rfl, rfl⟩
  case rst => obtain rfl := Host.Outcome.next.inj h; exact ⟨trivial, rfl, rfl, rfl⟩
  case hlt => obtain rfl := Host.Outcome.next.inj h; exact ⟨rfl, rfl, fun hs => by simpa using hs, rfl⟩
  all_goals
    have hc := (exec_effect h).sameControl nofun
    exact ⟨hc.ie, hc.inh, hc.sleep, hc.is⟩

/-- Settles O52: RF is part of the control state, which only the system instructions write. -/
theorem rfIsOnlyClearedByInstructions : Obligations.RfIsOnlyClearedByInstructions := by
  intro i s t h
  cases i
  case int => obtain ⟨-, rfl⟩ := exec_int_next h; rfl
  case ret => obtain ⟨-, rfl⟩ := exec_ret_next h; rfl
  case eni | dei | hlt | swp => obtain rfl := Host.Outcome.next.inj h; rfl
  case rst => trivial
  all_goals exact ((exec_effect h).sameControl nofun).rf

/-- Settles O53: the kinds that keep the flags, and the instructions that compute or restore them one by one. -/
theorem flagsChangeOnlyAsTheTableSays : Obligations.FlagsChangeOnlyAsTheTableSays := by
  intro i s t h
  cases i
  case cmp | cmu => obtain rfl := Host.Outcome.next.inj h; rfl
  case irf => obtain rfl := Host.Outcome.next.inj h; exact ⟨rfl, rfl⟩
  case cli =>
    obtain rfl := Host.Outcome.next.inj h
    exact ⟨fun hz => (Bool.and_eq_true_iff.1 hz).1, fun hc => (Bool.and_eq_true_iff.1 hc).1,
      fun hs => (Bool.and_eq_true_iff.1 hs).1⟩
  case int => obtain ⟨-, rfl⟩ := exec_int_next h; rfl
  case ret => obtain ⟨-, rfl⟩ := exec_ret_next h; rfl
  case eni | dei | hlt | swp => obtain rfl := Host.Outcome.next.inj h; rfl
  case rst | add | sub | mul | div | mod | neg | not | and | ior | xor | scl | scr | rol | ror | shl | shr | inc
    | dec => trivial
  all_goals exact (exec_effect h).rs_eq rfl

/-- Settles O55: the kinds that advance, and the system instructions among the sequential ones. -/
theorem pcAdvancesByTheLength : Obligations.PcAdvancesByTheLength := by
  intro i s t h
  cases i
  case ljp | jmr | jzr | jnr | jlr | jgr | jor | jur | jmp | jiz | jnz | jlt | jge | jof | jnf | cal | rcl | car | rcr
    | int | ret | rst => trivial
  case eni | dei | hlt | swp => obtain rfl := Host.Outcome.next.inj h; rfl
  case reserved07 | reserved0B | reserved0C | reserved18 | reserved1C | reserved1E | unassigned20 | reserved40
    | reserved85 | reserved86 | unassignedD1 | unassignedD2 | reservedDE => nomatch h
  all_goals exact (exec_effect h).pc_eq rfl

/-- Settles O56: a kind writes at most its destination and SP; of the system instructions only INT, RET and RST are more
than an advance, and INT keeps the registers. -/
theorem registersChangeOnlyAsDestinations : Obligations.RegistersChangeOnlyAsDestinations := by
  intro i s t q h
  cases i
  case ret | rst => trivial
  case int => obtain ⟨-, rfl⟩ := exec_int_next h; exact s.get_interruptEntry _ q
  case eni | dei | hlt | swp => obtain rfl := Host.Outcome.next.inj h; cases q <;> rfl
  case pop => exact or_assoc.1 ((exec_effect h).mayWrite_or_get_eq q)
  case pus | cal | rcl | rcr | mov | lod | add | sub | mul | div | mod | neg | not | and | ior | xor | scl | scr | laa
    | rol | ror | shl | shr | ldi | lri | mvi | inc | dec => exact (exec_effect h).mayWrite_or_get_eq q
  all_goals exact (exec_effect h).get_eq q id

/-- Settles O57: the environment by `Effect.env_eq`, the output and the mark with the control state, the draw counter by
kind. -/
theorem modelFieldsMoveOnlyAsNamed : Obligations.ModelFieldsMoveOnlyAsNamed := by
  intro i s t h
  refine ⟨(exec_effect h).env_eq, ?_⟩
  cases i
  case int => obtain ⟨-, rfl⟩ := exec_int_next h; exact ⟨rfl, fun _ => rfl, rfl⟩
  case ret => obtain ⟨-, rfl⟩ := exec_ret_next h; exact ⟨rfl, fun _ => rfl, rfl⟩
  case eni | dei | swp => obtain rfl := Host.Outcome.next.inj h; exact ⟨rfl, fun _ => rfl, rfl⟩
  case hlt => obtain rfl := Host.Outcome.next.inj h; exact ⟨rfl, fun hne => absurd rfl hne, rfl⟩
  case rst => obtain rfl := Host.Outcome.next.inj h; exact ⟨rfl, fun _ => rfl, Nat.lt_add_of_pos_right (by decide)⟩
  case add | sub | mul | div | mod | neg | not | and | ior | xor | scl | scr | rol | ror | shl | shr | inc | dec =>
    have hc := (exec_effect h).sameControl nofun
    exact ⟨hc.output, fun _ => hc.stuck, (exec_effect h).draws_lt⟩
  all_goals
    have hc := (exec_effect h).sameControl nofun
    exact ⟨hc.output, fun _ => hc.stuck, (exec_effect h).draws_eq rfl⟩

end Sys2Proof.Machine
end

section
/-! PROOFS. An interrupt keeps the interrupted program's context: while INH stays 1 no step changes IS (R320). -/

namespace Sys2Proof.Machine

/-- An instruction that starts and ends in the routine leaves IS alone: INT is not accepted there, and RST leaves the
routine (R33, R131, R320). -/
theorem exec_keeps_is {i : Instr} {s t : State} (hs : s.inh = true) (ht : t.inh = true) (h : exec i s = .next t) :
    t.is = s.is := by
  obtain ⟨-, -, -, his⟩ := controlStateIsWrittenOnlyBy i s t h
  cases i
  case int => obtain ⟨hinh, -⟩ := exec_int_next h; simp [hs] at hinh
  case rst => obtain rfl := Host.Outcome.next.inj h; nomatch ht
  all_goals exact his

/-- A step that starts and ends in the routine leaves IS alone (R320). -/
theorem step_keeps_is {s t : State} (hs : s.inh = true) (ht : t.inh = true) (h : step s = .next t) : t.is = s.is := by
  obtain ⟨-, ⟨hdue, -⟩ | ⟨-, -, rfl⟩ | ⟨-, -, i, hi⟩⟩ := step_next h
  · simp [State.entryDue, hs] at hdue
  · rfl
  · exact exec_keeps_is (s := s.arrive) hs ht hi

/-- A run of `k + 1` steps goes on exactly where one step does and a run of `k` after it. -/
theorem run_succ_next {M : Host.Core} {k : Nat} {s t : M.State} :
    M.run (k + 1) s = .next t ↔ ∃ u, M.step s = .next u ∧ M.run k u = .next t := by
  cases hs : M.step s <;> simp [Host.Core.run, hs]

/-- A run that stays in the routine leaves IS alone (R320). -/
theorem run_keeps_is (k : Nat) {s t : State} (h : core.run k s = .next t)
    (hin : ∀ j u, j ≤ k → core.run j s = .next u → State.inh u = true) : t.is = s.is := by
  induction k generalizing s with
  | zero => obtain rfl := Host.Outcome.next.inj h; rfl
  | succ k ih =>
    obtain ⟨u, hstep, hrun⟩ := run_succ_next.1 h
    have hs : s.inh = true := hin 0 s (Nat.zero_le _) rfl
    have hrest : ∀ j v, j ≤ k → core.run j u = .next v → State.inh v = true := fun j v hj hv =>
      hin (j + 1) v (Nat.succ_le_succ hj) (run_succ_next.2 ⟨u, hstep, hv⟩)
    calc t.is = u.is := ih hrun hrest
      _ = s.is := step_keeps_is hs (hrest 0 u (Nat.zero_le _) rfl) hstep

/-- Settles O50: the routine's run leaves IS as the entry filled it, and RET gives it back. -/
theorem interruptIsInvisibleToTheProgram : Obligations.InterruptIsInvisibleToTheProgram := by
  intro k s t ret h hin
  have his : t.is = ⟨s.ax, s.bx, s.cx, s.sp, ret, s.rs, true⟩ := run_keeps_is k h hin
  rw [exec_ret_valid (by rw [his]), State.interruptReturn, his]

end Sys2Proof.Machine
end

section
/-! PROOFS. Every read and every fetch of a byte that holds no value stops and names the first such byte (R37, U9). -/

namespace Sys2Proof.Machine

/-- A fetch stops at the first byte of the instruction that holds no value (R77, U9). -/
theorem State.fetch_unwritten {s : State} {bs : List Byte} (h : s.holds s.pc bs)
    (hl : ∀ b0, bs.head? = some b0 → bs.length < fetchLength b0)
    (hu : s.readByte (s.pc + BitVec.ofNat 16 bs.length) = none) :
    s.fetch = .error (.unwrittenByte (s.pc + BitVec.ofNat 16 bs.length)) := by
  cases bs with
  | nil =>
    have hpc : s.readByte s.pc = none := by simpa using hu
    simp [State.fetch, hpc]
  | cons b0 tl =>
    simp only [State.fetch, h.1]
    exact State.bytesFrom_unwritten h (hl b0 rfl) hu

theorem State.loadHigh_unwritten {s : State} {m : Reg} {a : Word} {n : Nat} (h : s.readByte a = none) :
    s.loadHigh m a n = .fault (.unwrittenByte a) := State.withByte_none h _

/-- A two-byte read stops at the first of its bytes that holds no value (R63, U9). -/
theorem State.withWord_unwritten {s : State} {a : Word} {bs : List Byte} (k : Word → Result) (hl : bs.length < 2)
    (h : s.holds a bs) (hu : s.readByte (a + BitVec.ofNat 16 bs.length) = none) :
    s.withWord a k = .fault (.unwrittenByte (a + BitVec.ofNat 16 bs.length)) := by
  match bs, hl with
  | [], _ =>
    have ha : s.readByte a = none := by simpa using hu
    simp [State.withWord, ha]
  | [b], _ =>
    have ha : s.readByte (a + 1#16) = none := hu
    have hb : s.readByte a = some b := h.1
    simp [State.withWord, ha, hb]

/-- A step stops at the first byte of the instruction at PC that holds no value (R77, U9). -/
theorem step_unwritten {s : State} {bs : List Byte} (hr : s.Runs) (h : s.holds s.pc bs)
    (hl : ∀ b0, bs.head? = some b0 → bs.length < fetchLength b0)
    (hu : s.readByte (s.pc + BitVec.ofNat 16 bs.length) = none) :
    step s = .fault (.unwrittenByte (s.pc + BitVec.ofNat 16 bs.length)) := by
  have hf : s.arrive.fetch = .error (.unwrittenByte (s.pc + BitVec.ofNat 16 bs.length)) :=
    State.fetch_unwritten (s := s.arrive) ((State.holds_congr s.arrive_mem _ _).2 h) hl hu
  rw [step_runs hr, State.runInstruction, hf]

/-- `Pop16` after SP has moved up by `d` (POP and RCL), with the addresses counted from the old SP (R75). -/
theorem State.pop16_unwritten_above {s : State} {k : Word → State → Result} {bs : List Byte} (d : Nat)
    (hl : bs.length < 2) (h : s.holds (s.sp + BitVec.ofNat 16 (d + 1)) bs)
    (hu : s.readByte (s.sp + BitVec.ofNat 16 (d + 1 + bs.length)) = none) :
    State.pop16 { s with sp := s.sp + BitVec.ofNat 16 d } k =
      .fault (.unwrittenByte (s.sp + BitVec.ofNat 16 (d + 1 + bs.length))) := by
  have hfirst : s.sp + BitVec.ofNat 16 (d + 1) = s.sp + BitVec.ofNat 16 d + 1#16 := by
    rw [BitVec.ofNat_add, ← BitVec.add_assoc]
  rw [BitVec.ofNat_add (d + 1), ← BitVec.add_assoc, hfirst] at hu ⊢
  rw [hfirst] at h
  exact State.pop16_unwritten (s := { s with sp := s.sp + BitVec.ofNat 16 d }) hl
    ((State.holds_congr (s := s) (t := { s with sp := s.sp + BitVec.ofNat 16 d }) rfl _ _).2 h) hu

theorem exec_pop_unwritten {s : State} {r : Reg} {bs : List Byte} (hl : bs.length < 2)
    (h : s.holds (s.sp + 1#16) bs) (hu : s.readByte (s.sp + BitVec.ofNat 16 (1 + bs.length)) = none) :
    exec (.pop r) s = .fault (.unwrittenByte (s.sp + BitVec.ofNat 16 (1 + bs.length))) := by
  rw [BitVec.ofNat_add, ← BitVec.add_assoc] at hu ⊢
  rw [exec_pop]
  exact State.pop16_unwritten hl h hu

/-- RCL discards `v` bytes and then pops (R215). -/
theorem exec_rcl_unwritten {s : State} {v : BitVec 4} {bs : List Byte} (hl : bs.length < 2)
    (h : s.holds (s.sp + BitVec.ofNat 16 (v.toNat + 1)) bs)
    (hu : s.readByte (s.sp + BitVec.ofNat 16 (v.toNat + 1 + bs.length)) = none) :
    exec (.rcl v) s = .fault (.unwrittenByte (s.sp + BitVec.ofNat 16 (v.toNat + 1 + bs.length))) := by
  rw [exec_rcl, zext4, ← BitVec.ofNat_toNat]
  exact State.pop16_unwritten_above v.toNat hl h hu

/-- RCR reads two words, the second two bytes above the first (R217). -/
theorem exec_rcr_unwritten {s : State} {r : Reg} {bs : List Byte} (hl : bs.length < 4) (h : s.holds (s.get r) bs)
    (hu : s.readByte (s.get r + BitVec.ofNat 16 bs.length) = none) :
    exec (.rcr r) s = .fault (.unwrittenByte (s.get r + BitVec.ofNat 16 bs.length)) := by
  rw [exec_rcr]
  by_cases hshort : bs.length < 2
  · exact State.withWord_unwritten _ hshort h hu
  · match bs, h with
    | hb :: lb :: tl, ⟨hhigh, hlow, htl⟩ =>
      have htwo : s.get r + 1#16 + 1#16 = s.get r + 2#16 := by rw [BitVec.add_assoc]; rfl
      have hlen : BitVec.ofNat 16 (hb :: lb :: tl).length = 2#16 + BitVec.ofNat 16 tl.length := by
        rw [← BitVec.ofNat_add, List.length_cons, List.length_cons, Nat.add_assoc, Nat.add_comm]
      rw [hlen, ← BitVec.add_assoc] at hu ⊢
      rw [htwo] at htl
      have htlen : tl.length < 2 := by simp only [List.length_cons] at hl; omega
      rw [State.withWord_some hhigh hlow]
      exact State.withWord_unwritten _ htlen htl hu
    | [], _ => simp at hshort
    | [_], _ => simp at hshort

/-- Settles O45: each reader stops at the byte that is not there. -/
theorem unwrittenBytesStop : Obligations.UnwrittenBytesStop := by
  intro s a ha
  refine ⟨?_, fun m => State.loadHigh_unwritten ha, ?_, ?_, ?_, ?_, ?_, ?_⟩
  · rintro bs hr h hl rfl
    exact step_unwritten hr h hl ha
  · rintro m l rfl
    exact State.loadHigh_unwritten ha
  · rintro m l k rfl
    rw [exec_ldi]
    exact State.loadHigh_unwritten ha
  · rintro m d l k rfl
    rw [exec_lri]
    exact State.loadHigh_unwritten ha
  · rintro r bs hl h rfl
    exact exec_pop_unwritten hl h ha
  · rintro v bs hl h rfl
    exact exec_rcl_unwritten hl h ha
  · rintro r bs hl h rfl
    exact exec_rcr_unwritten hl h ha

end Sys2Proof.Machine
end

section
/-! PROOFS. Reset and power-on (spec/70_reset_and_hazards.md R350, R351). -/

namespace Sys2Proof.Machine

/-- A machine that is awake, outside the routine and not stuck has the invariant where its memory is canonical. -/
theorem State.inv_of_idle {s : State} (hmem : s.mem.wf = true) (hsleep : s.sleep = false) (hinh : s.inh = false)
    (hstuck : s.stuck = false) : s.Inv := by
  simp [State.Inv, hmem, hsleep, hinh, hstuck]

/-- Settles O59: reset leaves the machine awake, outside the routine and not stuck. -/
theorem invariantHoldsAfterReset : Obligations.InvariantHoldsAfterReset :=
  ⟨State.inv_of_idle State.reset_wf rfl rfl rfl, fun _ _ _ himage => State.inv_of_idle himage rfl rfl rfl⟩

/-- The values that `State.reset` holds where the spec leaves them unspecified (logs 1 to 5). -/
def zeroResetValues : ResetValues where
  ax := 0#16
  bx := 0#16
  cx := 0#16
  sp := 0#16
  rs := ⟨false, false, false⟩
  rf := 0#8
  ie := false
  isAx := 0#16
  isBx := 0#16
  isCx := 0#16
  isSp := 0#16
  isPc := 0#16
  isRs := ⟨false, false, false⟩

theorem reset_eq_powerOn : State.reset = State.powerOn [] zeroResetValues [] := rfl

/-- Settles O60: the fields of the power-on state, and `State.reset` as the one with zeros and an empty image. -/
theorem powerOnLeavesTheResetState : Obligations.PowerOnLeavesTheResetState := by
  refine ⟨?_, zeroResetValues, reset_eq_powerOn⟩
  rintro image u env s rfl
  exact ⟨rfl, rfl, rfl, rfl, rfl, rfl, rfl, rfl, rfl, rfl, rfl, rfl⟩

end Sys2Proof.Machine
end

section
/-! PROOFS. Memory and the stack (spec/20_memory.md): only the six storing instructions write memory (R61), what they
store is what the next fetch reads (R72), and a pop undoes a push (R74, R75). -/

namespace Sys2Proof.Machine

/-! ### Only the storing kinds write memory -/

/-- Whether the kind leaves memory alone (R61). -/
def Kind.keepsMemory : Kind → Bool
  | .store | .push | .call | .callContext => false
  | _ => true

theorem Effect.mem_eq {n : Nat} {s t : State} {k : Kind} (e : Effect n s k t) (hk : k.keepsMemory = true) :
    t.mem = s.mem := by
  cases e with
  | store | push | call | callContext => nomatch hk
  | system _ hmem => exact hmem
  | _ => rfl

/-- Settles O54: an instruction of a kind that keeps memory leaves every byte as it was. -/
theorem memoryIsWrittenOnlyByStores : Obligations.MemoryIsWrittenOnlyByStores := by
  intro i s t h
  cases i
  case sto | sti | sri | pus | cal | car => trivial
  all_goals exact State.readByte_congr ((exec_effect h).mem_eq rfl)

/-! ### A fetch reads what was stored -/

/-- The k-th byte a fetch reads is the one that stands k places above `pc` (R77). -/
theorem State.readByte_of_fetch {s : State} {bs : List Byte} {k : Nat} {x : Byte} (h : s.fetch = .ok bs)
    (hk : bs[k]? = some x) : s.readByte (s.pc + BitVec.ofNat 16 k) = some x :=
  State.holds_getElem? (State.holds_of_fetch h) hk

/-- Settles O44: the stored byte stands at its address, and a fetch reads what stands in memory; setting PC leaves
memory alone. -/
theorem storeIsSeenByTheNextFetch : Obligations.StoreIsSeenByTheNextFetch := by
  intro i s t a b h hm
  have hb : t.readByte a = some b := State.readByte_stored h hm
  constructor
  · intro tl hlen htl
    have hholds : (t.jump a).holds a (b :: tl) := (State.holds_congr (t.jump_mem a) _ _).2 ⟨hb, htl⟩
    exact State.fetch_holds (s := t.jump a) hholds (Nat.eq_sub_of_add_eq hlen)
  · rintro p bs k x hf hk rfl
    have hx : t.readByte (p + BitVec.ofNat 16 k) = some x := State.readByte_of_fetch (s := t.jump p) hf hk
    exact Option.some.inj (hx.symm.trans hb)

/-! ### A pop undoes a push -/

/-- `Pop16` where memory and SP are as `Push16(v)` left them gives `v` back and SP as it was before the push
(R74, R75). -/
theorem State.pop16_of_push16 {s t : State} {v : Word} (hmem : t.mem = (s.push16 v).mem)
    (hsp : t.sp = (s.push16 v).sp) (k : Word → State → Result) : t.pop16 k = k v { t with sp := s.sp } := by
  rw [State.push16_sp] at hsp
  have hfirst : t.sp + 1#16 = s.sp - 1#16 := by rw [hsp]; bv_omega
  have hsecond : t.sp + 2#16 = s.sp := by rw [hsp]; exact BitVec.sub_add_cancel _ _
  have hhigh : t.readByte (t.sp + 1#16) = some (hiByte v) := by
    rw [hfirst]; exact State.readByte_push16_stored hmem (by simp)
  have hlow : t.readByte (t.sp + 2#16) = some (loByte v) := by
    rw [hsecond]; exact State.readByte_push16_stored hmem (by simp)
  rw [State.pop16_some hhigh hlow, joinBytes_hiByte_loByte, hsecond]

/-- POP into a register that already holds the word `Push16(v)` stored: SP goes back to where it was before the push,
and beyond that only PC moves (R151). -/
theorem exec_pop_of_push16 {s t : State} {r : Reg} {v : Word} (hmem : t.mem = (s.push16 v).mem)
    (hsp : t.sp = (s.push16 v).sp) (hr : State.get { t with sp := s.sp } r = v) :
    exec (.pop r) t = .next (State.advance { t with sp := s.sp } 1) := by
  subst hr
  rw [exec_pop, State.pop16_of_push16 hmem hsp, State.set_get]

/-- Settles O18: the register PUS pushed still holds the word when SP is back, so POP changes none of them. -/
theorem popUndoesPus : Obligations.PopUndoesPus := by
  intro s t r h
  obtain rfl : (s.push16 (s.get r)).advance 1 = t := Host.Outcome.next.inj h
  have hregs : s.SameRegs { (s.push16 (s.get r)).advance 1 with sp := s.sp } := State.get_congr rfl rfl rfl rfl
  refine ⟨_, exec_pop_of_push16 rfl rfl (hregs r), fun q => ?_, BitVec.add_assoc s.pc 1#16 1#16, rfl,
    rfl, rfl, rfl, rfl, rfl, rfl, rfl, rfl, rfl, rfl⟩
  rw [State.get_advance, hregs q]

end Sys2Proof.Machine
end

section
/-! PROOFS. The opcode map and the encoder (spec/30_encoding.md section 6): every first byte selects one row, and what the
encoder writes selects the row of its format, which reads the instruction back (the lemmas `Decodes.of_row…`). -/

namespace Sys2Proof

/-! ### The map and the lengths (R90, R95) -/

/-- Settles O4, by evaluating the map at each of the 256 first bytes. -/
theorem everyFirstByteSelectsOneRow : Obligations.EveryFirstByteSelectsOneRow :=
  ⟨rfl, by decide +kernel⟩

/-- Settles O5, by evaluating the length at each of the 256 first bytes. -/
theorem firstByteDecidesLength : Obligations.FirstByteDecidesLength := by
  unfold Obligations.FirstByteDecidesLength
  decide +kernel

theorem OpcodeRow.selects_iff {row : OpcodeRow} {b : Byte} : row.selects b = true ↔ b &&& row.mask = row.pattern := by
  simp [OpcodeRow.selects]

/-- `rowOf` answers the one row of the map that the byte selects (R95, R104). -/
theorem rowOf_eq_some_iff {b : Byte} {row : OpcodeRow} :
    rowOf b = some row ↔ row ∈ opcodeMap ∧ row.selects b = true := by
  have hmem {r : OpcodeRow} (h : rowOf b = some r) : r ∈ opcodeMap ∧ r.selects b = true :=
    ⟨List.mem_of_find?_eq_some h, List.find?_some (p := fun r : OpcodeRow => r.selects b) h⟩
  refine ⟨hmem, fun h => ?_⟩
  obtain ⟨found, hfound⟩ := Option.isSome_iff_exists.1 (rowOf_isSome b)
  obtain ⟨only, honly⟩ := List.length_eq_one_iff.1 (everyFirstByteSelectsOneRow.2 b)
  have heq {r : OpcodeRow} (h : r ∈ opcodeMap ∧ r.selects b = true) : r = only := by
    rw [← List.mem_singleton, ← honly]
    exact List.mem_filter.2 h
  rw [hfound, heq (hmem hfound), heq h]

/-- The row that some byte selects is the row of every byte that selects it. -/
theorem rowOf_of_selects {b b' : Byte} {row : OpcodeRow} (h : rowOf b' = some row)
    (hs : b &&& row.mask = row.pattern) : rowOf b = some row :=
  rowOf_eq_some_iff.2 ⟨(rowOf_eq_some_iff.1 h).1, OpcodeRow.selects_iff.2 hs⟩

/-- A fetch reads as many bytes as the row says, one where the row knows no length (R90, log 15). -/
theorem fetchLength_of_row {b : Byte} {row : OpcodeRow} (h : rowOf b = some row) :
    fetchLength b = row.length.getD 1 := by
  simp [fetchLength, instrLength, h]

/-! ### First bytes with fields select by their fixed bits (R91) -/

theorem byteR_and_mask (op : BitVec 6) (r : Reg) : byteR op r &&& 0xFC#8 = op ++ 0#2 := by
  cases r <;> (revert op; decide)

theorem append_and_mask (op v : BitVec 4) : (op ++ v : Byte) &&& 0xF0#8 = op ++ 0#4 := by
  revert op v; decide

theorem byteRR_and_mask (op : BitVec 4) (m l : Reg) : byteRR op m l &&& 0xF0#8 = op ++ 0#4 := by
  cases m <;> cases l <;> (revert op; decide)

/-! ### What the encoder writes is read back, format by format (R91)

Each lemma asks for the row of the format at the pattern of its first byte, where all fields are 0. -/

theorem Decodes.of_rowN1 {p : Byte} {i : Instr} (h : rowOf p = some (rowN1 p i)) : Decodes [p] i :=
  .oneByte h (fetchLength_of_row h) fun _ _ => rfl

/-- A reserved or unassigned row whose free bits are `k` (R96, R97). -/
theorem Decodes.of_rowNone {w : Nat} {byte : BitVec w → Byte} {mask : Byte} {f : Byte → Instr} {g : BitVec w → Instr}
    (h : rowOf (byte 0) = some (rowNone (byte 0) mask f)) (hs : ∀ k, byte k &&& mask = byte 0)
    (hf : ∀ k, f (byte k) = g k) (k : BitVec w) : Decodes [byte k] (g k) :=
  have hrow := rowOf_of_selects h (hs k)
  .oneByte hrow (fetchLength_of_row hrow) fun _ _ => hf k

theorem Decodes.of_rowR1 {op : BitVec 6} {f : Reg → Instr} {r : Reg}
    (h : rowOf (op ++ 0#2) = some (rowR1 (op ++ 0#2) f)) : Decodes [byteR op r] (f r) :=
  have hrow := rowOf_of_selects h (byteR_and_mask op r)
  .oneByte hrow (fetchLength_of_row hrow) fun _ _ => congrArg f (fieldLow_byteR op r)

theorem Decodes.of_rowRR1 {op : BitVec 4} {f : Reg → Reg → Instr} {m l : Reg}
    (h : rowOf (op ++ 0#4) = some (rowRR1 (op ++ 0#4) f)) : Decodes [byteRR op m l] (f m l) :=
  have hrow := rowOf_of_selects h (byteRR_and_mask op m l)
  .oneByte hrow (fetchLength_of_row hrow) fun _ _ => congr (congrArg f (fieldMid_byteRR op m l)) (fieldLow_byteRR op m l)

theorem Decodes.of_rowV1 {op v : BitVec 4} {f : BitVec 4 → Instr}
    (h : rowOf (op ++ 0#4) = some (rowV1 (op ++ 0#4) f)) : Decodes [op ++ v] (f v) :=
  have hrow := rowOf_of_selects h (append_and_mask op v)
  .oneByte hrow (fetchLength_of_row hrow) fun _ _ => congrArg f BitVec.extractLsb'_append_eq_right

theorem Decodes.of_rowA2 {p : Byte} {f : Reg → A2Operand → Instr} {m : Reg} {o : A2Operand}
    (h : rowOf p = some (rowA2 p f)) (ho : o.wellFormed = true) : Decodes [p, byteA2 m o] (f m o) :=
  .twoBytes h (fetchLength_of_row h) fun _ => congr (congrArg f (fieldMid_byteA2 m o)) (fieldA2_byteA2 m o ho)

theorem Decodes.of_rowI2 {p k : Byte} {f : Byte → Instr} (h : rowOf p = some (rowI2 p f)) : Decodes [p, k] (f k) :=
  .twoBytes h (fetchLength_of_row h) fun _ => rfl

theorem Decodes.of_rowM2 {p : Byte} {f : Bool → Bool → Bool → Instr} {z c s : Bool}
    (h : rowOf p = some (rowM2 p f)) : Decodes [p, byteM2 z c s] (f z c s) := by
  obtain ⟨hz, hc, hs⟩ := byteM2_bits z c s
  exact .twoBytes h (fetchLength_of_row h) fun _ => by simp only [rowM2, hz, hc, hs]

theorem Decodes.of_rowX2 {p : Byte} {f : Reg → Reg → BitVec 4 → Instr} {m l : Reg} {v : BitVec 4}
    (h : rowOf p = some (rowX2 p f)) : Decodes [p, byteRR v m l] (f m l v) :=
  .twoBytes h (fetchLength_of_row h) fun _ => by simp [rowX2]

theorem Decodes.of_rowY2 {p : Byte} {f : Reg → Reg → Reg → BitVec 2 → Instr} {m d l : Reg} {v : BitVec 2}
    (h : rowOf p = some (rowY2 p f)) : Decodes [p, byteY2 v m d l] (f m d l v) :=
  .twoBytes h (fetchLength_of_row h) fun _ => by simp [rowY2]

theorem Decodes.of_rowL3 {p : Byte} {f : Word → Instr} {a : Word} (h : rowOf p = some (rowL3 p f)) :
    Decodes [p, hiByte a, loByte a] (f a) :=
  .threeBytes h (fetchLength_of_row h) (congrArg f (joinBytes_hiByte_loByte a))

theorem Decodes.of_rowRL3 {op : BitVec 6} {f : Reg → Word → Instr} {r : Reg} {a : Word}
    (h : rowOf (op ++ 0#2) = some (rowRL3 (op ++ 0#2) f)) : Decodes [byteR op r, hiByte a, loByte a] (f r a) :=
  have hrow := rowOf_of_selects h (byteR_and_mask op r)
  .threeBytes hrow (fetchLength_of_row hrow) (congr (congrArg f (fieldLow_byteR op r)) (joinBytes_hiByte_loByte a))

/-- Settles O1: each instruction has the row of its format. -/
theorem decodeInvertsEncode : Obligations.DecodeInvertsEncode := by
  intro i hw
  cases i
  case nop | int | eni | dei | rst | hlt | swp | cmp | ret | cmu => exact .of_rowN1 rfl
  case reserved07 | reserved0B | reserved1E | reserved85 | unassignedD1 | reservedDE =>
    exact .oneByte rfl rfl fun _ _ => rfl
  case reserved0C k | reserved18 k | reserved1C k | unassigned20 k | reserved40 k | reserved86 k | unassignedD2 k =>
    exact .of_rowNone rfl (by decide) (by decide) k
  case pus | pop | jmr | jzr | jnr | jlr | jgr | jor | jur | neg | not | rcr | inc | dec => exact .of_rowR1 rfl
  case mov | lod | sto | and | ior | xor => exact .of_rowRR1 rfl
  case rcl => exact .of_rowV1 rfl
  case add | sub | mul | div | mod | scl | scr | rol | ror | shl | shr => exact .of_rowA2 rfl hw
  case irf | jmp | jiz | jnz | jlt | jge | jof | jnf => exact .of_rowI2 rfl
  case cli => exact .of_rowM2 rfl
  case ldi | sti => exact .of_rowX2 rfl
  case lri | sri => exact .of_rowY2 rfl
  case ljp | cal => exact .of_rowL3 rfl
  case car | laa | mvi => exact .of_rowRL3 rfl

/-- O1 with the bytes written out. -/
theorem Decodes.of_encode {bs : List Byte} {i : Instr} (hw : i.wellFormed = true) (he : encode i = bs) :
    Decodes bs i := he ▸ decodeInvertsEncode i hw

/-- Settles O39: in each of the thirteen rows, and for each value of its free bits, the byte is what the encoder writes,
and the meaning is the stop. -/
theorem reservedBytesStop : Obligations.ReservedBytesStop := by
  rintro i b (⟨rfl, rfl⟩ | ⟨rfl, rfl⟩ | ⟨k, rfl, rfl⟩ | ⟨k, rfl, rfl⟩ | ⟨k, rfl, rfl⟩ | ⟨rfl, rfl⟩ | ⟨k, rfl, rfl⟩ |
    ⟨k, rfl, rfl⟩ | ⟨rfl, rfl⟩ | ⟨k, rfl, rfl⟩ | ⟨rfl, rfl⟩ | ⟨k, rfl, rfl⟩ | ⟨rfl, rfl⟩)
  all_goals exact ⟨.of_encode rfl (by decide +revert), fun _ => rfl⟩

end Sys2Proof
end

section
/-! PROOFS. The eleven A2 instructions and CLI, whose second bytes hold ignored bits (spec/30_encoding.md R94, R98). -/

namespace Sys2Proof

/-! ### The A2 instructions as a list -/

/-- The eleven first bytes of format A2, each with its instruction. -/
def a2Forms : List (Byte × (Reg → A2Operand → Instr)) :=
  [(0x80, .add), (0x81, .sub), (0x82, .mul), (0x83, .div), (0x84, .mod), (0xDC, .scl), (0xDD, .scr), (0xE4, .rol),
    (0xE5, .ror), (0xE6, .shl), (0xE7, .shr)]

theorem rowOf_a2Forms : ∀ p ∈ a2Forms, rowOf p.1 = some (rowA2 p.1 p.2) := by
  simp only [a2Forms, List.forall_mem_cons]
  exact ⟨rfl, rfl, rfl, rfl, rfl, rfl, rfl, rfl, rfl, rfl, rfl, nofun⟩

theorem encode_a2Forms : ∀ p ∈ a2Forms, ∀ m o, encode (p.2 m o) = [p.1, byteA2 m o] := by
  simp [a2Forms, encode]

theorem wellFormed_a2Forms : ∀ p ∈ a2Forms, ∀ m o, (p.2 m o).wellFormed = o.wellFormed := by
  simp [a2Forms, Instr.wellFormed]

/-- The instructions with bits that the decoder ignores: the A2 immediate forms and CLI (R98). -/
def Instr.HasIgnoredBits (i : Instr) : Prop :=
  (∃ p ∈ a2Forms, ∃ m v, i = p.2 m (.imm v)) ∨ ∃ z c s, i = .cli z c s

/-! ### The fields lie above the ignored bits -/

/-- What a two-byte row reads. -/
theorem decode_twoBytes {b0 b1 : Byte} {rest : List Byte} {row : OpcodeRow} (h : rowOf b0 = some row)
    (hl : row.length = some 2) : decode (b0 :: b1 :: rest) = .ok (row.build b0 b1 (rest.getD 0 0), rest) := by
  have hlen : fetchLength b0 = 2 := by rw [fetchLength_of_row h, hl, Option.getD_some]
  rw [decode_of_row h (by simp [hlen]), hlen]
  rfl

theorem toNat_fieldV4 (b : Byte) : (fieldV4 b).toNat = b.toNat / 4 / 4 % 16 := by
  simp [fieldV4, Nat.shiftRight_eq_div_pow, Nat.div_div_eq_div_mul]

/-- The MSB register lies above the ignored bits of an A2 immediate form. -/
theorem fieldMid_congr {b b' : Byte} (h : b.toNat / 4 = b'.toNat / 4) : fieldMid b = fieldMid b' := by
  have hbits : b.extractLsb' 2 2 = b'.extractLsb' 2 2 := by
    apply BitVec.eq_of_toNat_eq
    simp [Nat.shiftRight_eq_div_pow, h]
  rw [fieldMid, hbits, fieldMid]

/-- With `v ≠ 0` the second operand is the immediate, which lies above the ignored bits. -/
theorem fieldA2_congr {b b' : Byte} (hv : 16 ≤ b.toNat) (h : b.toNat / 4 = b'.toNat / 4) : fieldA2 b = fieldA2 b' := by
  have hne : fieldV4 b ≠ 0#4 := by
    intro h0
    have h4 : 0 = b.toNat / 4 / 4 % 16 :=
      (congrArg BitVec.toNat h0).symm.trans (toNat_fieldV4 b)
    have hb := b.isLt
    omega
  have heq : fieldV4 b = fieldV4 b' := BitVec.eq_of_toNat_eq (by rw [toNat_fieldV4, toNat_fieldV4, h])
  rw [fieldA2, if_neg hne, fieldA2, ← heq, if_neg hne]

/-- A bit from 5 on lies above the ignored bits of CLI. -/
theorem getLsbD_congr_above {b b' : Byte} (h : b.toNat / 32 = b'.toNat / 32) (j : Nat) :
    b.getLsbD (j + 5) = b'.getLsbD (j + 5) := by
  have hbit (x : Byte) : x.getLsbD (j + 5) = (x.toNat / 32).testBit j := (Nat.testBit_div_two_pow x.toNat j).symm
  rw [hbit, hbit, h]

theorem toNat_byteA2_imm (m : Reg) (v : BitVec 4) : (byteA2 m (.imm v)).toNat % 4 = 0 := by
  cases m <;> (revert v; decide)

/-- Settles O7: the fields of either format lie above its ignored bits. -/
theorem ignoredBitsAreIgnored : Obligations.IgnoredBitsAreIgnored := by
  refine ⟨?_, ?_, ?_, ?_⟩
  · intro b0 b b' rest hb0 hv h
    obtain ⟨p, hp, rfl⟩ : ∃ p ∈ a2Forms, p.1 = b0 := List.mem_map.1 hb0
    have hrow := rowOf_a2Forms p hp
    rw [decode_twoBytes hrow rfl, decode_twoBytes hrow rfl]
    simp only [rowA2, fieldMid_congr h, fieldA2_congr hv h]
  · intro b b' rest h
    have hrow : rowOf 0xE8#8 = some (rowM2 0xE8 .cli) := rfl
    rw [decode_twoBytes hrow rfl, decode_twoBytes hrow rfl]
    simp only [rowM2, getLsbD_congr_above h 2, getLsbD_congr_above h 1, getLsbD_congr_above h 0]
  · intro m v i hi
    obtain ⟨p, hp, rfl⟩ : ∃ p ∈ a2Forms, p.2 m (.imm v) = i := List.mem_map.1 hi
    exact ⟨_, _, encode_a2Forms p hp m _, toNat_byteA2_imm m v⟩
  · intro z c s
    exact ⟨_, _, rfl, by revert z c s; decide⟩

/-- Settles O6: the bytes are those the encoder writes, but for `80 5B` and `E8 FF`, which differ from them in ignored
bits. -/
theorem specWordsDecode : Obligations.SpecWordsDecode := by
  obtain ⟨hA2, hM2, -, -⟩ := ignoredBitsAreIgnored
  have hadd : Decodes [0x80, 0x58] (.add .cx (.imm 5)) := .of_encode rfl rfl
  have hadd' : Decodes [0x80, 0x5B] (.add .cx (.imm 5)) := fun rest =>
    (hA2 0x80 0x5B 0x58 rest (by decide) (by decide) (by decide)).trans (hadd rest)
  have hcli : Decodes [0xE8, 0xE0] (.cli true true true) := .of_encode rfl rfl
  have hcli' : Decodes [0xE8, 0xFF] (.cli true true true) := fun rest =>
    (hM2 0xFF 0xE0 rest (by decide)).trans (hcli rest)
  exact ⟨.of_encode rfl rfl, .of_encode rfl rfl, .of_encode rfl rfl, .of_encode rfl rfl, .of_encode rfl rfl,
    .of_encode rfl rfl, .of_encode rfl rfl, .of_encode rfl rfl, hadd, hadd', .of_encode rfl rfl,
    .of_encode rfl rfl, .of_encode rfl rfl, .of_encode rfl rfl, .of_encode rfl rfl, .of_encode rfl rfl,
    .of_encode rfl rfl, .of_encode rfl rfl, .of_encode rfl rfl, hcli', .of_encode rfl rfl,
    .of_encode rfl rfl, .of_encode rfl rfl, .of_encode rfl rfl, .of_encode rfl rfl, .of_encode rfl rfl⟩

end Sys2Proof
end

section
/-! PROOFS. The rows of the opcode map are sound (`OpcodeRow.Sound`): what a row reads is well formed, and the encoder
writes it back (spec/30_encoding.md R91 to R99). -/

namespace Sys2Proof

/-! ### Bytes put together from their fields (R91) -/

theorem byteR_fields (b : Byte) : byteR ((b &&& 0xFC#8).extractLsb' 2 6) (fieldLow b) = b := by
  revert b; decide +kernel

theorem append_fields (b : Byte) : ((b &&& 0xF0#8).extractLsb' 4 4 ++ b.extractLsb' 0 4 : Byte) = b := by
  revert b; decide +kernel

theorem byteRR_fields (b : Byte) : byteRR ((b &&& 0xF0#8).extractLsb' 4 4) (fieldMid b) (fieldLow b) = b := by
  revert b; decide +kernel

theorem byteRR_fieldV4 (b : Byte) : byteRR (fieldV4 b) (fieldMid b) (fieldLow b) = b := by
  revert b; decide +kernel

theorem byteY2_fields (b : Byte) : byteY2 (fieldV2 b) (fieldHigh b) (fieldMid b) (fieldLow b) = b := by
  revert b; decide +kernel

/-! ### What a row reads is written back, format by format (R91) -/

/-- Whatever bytes a row reads, the instruction is well formed, and the encoder writes the bytes back unless some of
their bits are ignored. -/
structure OpcodeRow.Sound (row : OpcodeRow) : Prop where
  wellFormed : ∀ b0 b1 b2, (row.build b0 b1 b2).wellFormed = true
  restores : ∀ b0 b1 b2, b0 &&& row.mask = row.pattern →
    encode (row.build b0 b1 b2) = [b0, b1, b2].take (row.length.getD 1) ∨ (row.build b0 b1 b2).HasIgnoredBits

namespace OpcodeRow.Sound

/-- A full mask leaves one first byte, the pattern. -/
theorem eq_pattern_of_full_mask {b p : Byte} (h : b &&& 0xFF#8 = p) : b = p := BitVec.and_allOnes.symm.trans h

variable {p : Byte}

theorem of_rowN1 {i : Instr} (hw : i.wellFormed = true := by rfl) (he : encode i = [p] := by rfl) :
    (rowN1 p i).Sound where
  wellFormed _ _ _ := hw
  restores b0 _ _ hs := by
    obtain rfl : b0 = p := eq_pattern_of_full_mask hs
    exact .inl he

theorem of_rowNone {mask : Byte} {f : Byte → Instr} (hw : ∀ b, (f b).wellFormed = true := by intros; rfl)
    (he : ∀ b, b &&& mask = p → encode (f b) = [b] := by decide +kernel) : (rowNone p mask f).Sound where
  wellFormed b0 _ _ := hw b0
  restores b0 _ _ hs := .inl (he b0 hs)

theorem of_rowR1 {f : Reg → Instr} (hw : ∀ r, (f r).wellFormed = true := by intros; rfl)
    (he : ∀ r, encode (f r) = [byteR (p.extractLsb' 2 6) r] := by intros; rfl) : (rowR1 p f).Sound where
  wellFormed b0 _ _ := hw (fieldLow b0)
  restores b0 _ _ hs := by
    obtain rfl : b0 &&& 0xFC#8 = p := hs
    exact .inl ((he _).trans (congrArg (fun b => [b]) (byteR_fields b0)))

theorem of_rowRR1 {f : Reg → Reg → Instr} (hw : ∀ m l, (f m l).wellFormed = true := by intros; rfl)
    (he : ∀ m l, encode (f m l) = [byteRR (p.extractLsb' 4 4) m l] := by intros; rfl) : (rowRR1 p f).Sound where
  wellFormed b0 _ _ := hw (fieldMid b0) (fieldLow b0)
  restores b0 _ _ hs := by
    obtain rfl : b0 &&& 0xF0#8 = p := hs
    exact .inl ((he _ _).trans (congrArg (fun b => [b]) (byteRR_fields b0)))

theorem of_rowV1 {f : BitVec 4 → Instr} (hw : ∀ v, (f v).wellFormed = true := by intros; rfl)
    (he : ∀ v, encode (f v) = [p.extractLsb' 4 4 ++ v] := by intros; rfl) : (rowV1 p f).Sound where
  wellFormed b0 _ _ := hw (b0.extractLsb' 0 4)
  restores b0 _ _ hs := by
    obtain rfl : b0 &&& 0xF0#8 = p := hs
    exact .inl ((he _).trans (congrArg (fun b => [b]) (append_fields b0)))

/-- The register form is written back; the immediate form has ignored bits. -/
theorem of_rowA2 {f : Reg → A2Operand → Instr} (hp : (p, f) ∈ a2Forms := by simp [a2Forms]) : (rowA2 p f).Sound where
  wellFormed _ b1 _ := (wellFormed_a2Forms _ hp _ _).trans (fieldA2_wellFormed b1)
  restores b0 b1 _ hs := by
    obtain rfl : b0 = p := eq_pattern_of_full_mask hs
    by_cases hv : fieldV4 b1 = 0#4
    · left
      have hbyte : byteA2 (fieldMid b1) (fieldA2 b1) = b1 := by
        rw [fieldA2, if_pos hv, byteA2, ← hv, byteRR_fieldV4]
      exact (encode_a2Forms _ hp _ _).trans (congrArg (fun b => [b0, b]) hbyte)
    · right
      exact .inl ⟨_, hp, fieldMid b1, fieldV4 b1, congrArg (f (fieldMid b1)) (if_neg hv)⟩

theorem of_rowI2 {f : Byte → Instr} (hw : ∀ k, (f k).wellFormed = true := by intros; rfl)
    (he : ∀ k, encode (f k) = [p, k] := by intros; rfl) : (rowI2 p f).Sound where
  wellFormed _ b1 _ := hw b1
  restores b0 b1 _ hs := by
    obtain rfl : b0 = p := eq_pattern_of_full_mask hs
    exact .inl (he b1)

/-- CLI, the one instruction of its format, has ignored bits. -/
theorem of_rowM2 : (rowM2 p .cli).Sound where
  wellFormed _ _ _ := rfl
  restores _ _ _ _ := .inr (.inr ⟨_, _, _, rfl⟩)

theorem of_rowX2 {f : Reg → Reg → BitVec 4 → Instr} (hw : ∀ m l v, (f m l v).wellFormed = true := by intros; rfl)
    (he : ∀ m l v, encode (f m l v) = [p, byteRR v m l] := by intros; rfl) : (rowX2 p f).Sound where
  wellFormed _ _ _ := hw _ _ _
  restores b0 b1 _ hs := by
    obtain rfl : b0 = p := eq_pattern_of_full_mask hs
    exact .inl ((he _ _ _).trans (congrArg (fun b => [b0, b]) (byteRR_fieldV4 b1)))

theorem of_rowY2 {f : Reg → Reg → Reg → BitVec 2 → Instr}
    (hw : ∀ m d l v, (f m d l v).wellFormed = true := by intros; rfl)
    (he : ∀ m d l v, encode (f m d l v) = [p, byteY2 v m d l] := by intros; rfl) : (rowY2 p f).Sound where
  wellFormed _ _ _ := hw _ _ _ _
  restores b0 b1 _ hs := by
    obtain rfl : b0 = p := eq_pattern_of_full_mask hs
    exact .inl ((he _ _ _ _).trans (congrArg (fun b => [b0, b]) (byteY2_fields b1)))

theorem of_rowL3 {f : Word → Instr} (hw : ∀ a, (f a).wellFormed = true := by intros; rfl)
    (he : ∀ a, encode (f a) = [p, hiByte a, loByte a] := by intros; rfl) : (rowL3 p f).Sound where
  wellFormed _ _ _ := hw _
  restores b0 b1 b2 hs := by
    obtain rfl : b0 = p := eq_pattern_of_full_mask hs
    left
    simp [rowL3, he]

theorem of_rowRL3 {f : Reg → Word → Instr} (hw : ∀ r a, (f r a).wellFormed = true := by intros; rfl)
    (he : ∀ r a, encode (f r a) = [byteR (p.extractLsb' 2 6) r, hiByte a, loByte a] := by intros; rfl) :
    (rowRL3 p f).Sound where
  wellFormed _ _ _ := hw _ _
  restores b0 b1 b2 hs := by
    obtain rfl : b0 &&& 0xFC#8 = p := hs
    left
    simp [rowRL3, he, byteR_fields]

end OpcodeRow.Sound

/-! ### The rows of the map, in its order (R95)

Each row is sound by the lemma of its format, whose hypotheses hold by evaluation. -/

section
open OpcodeRow.Sound

theorem rowsControl_sound : ∀ row ∈ rowsControl, row.Sound := by
  simp only [rowsControl, List.forall_mem_cons]
  exact ⟨of_rowN1, of_rowN1, of_rowN1, of_rowN1, of_rowN1, of_rowN1, of_rowN1, of_rowNone, of_rowN1, of_rowN1,
    of_rowN1, of_rowNone, of_rowNone, of_rowR1, of_rowR1, of_rowNone, of_rowNone, of_rowNone, of_rowL3, of_rowNone,
    nofun⟩

theorem rowsJumpMove_sound : ∀ row ∈ rowsJumpMove, row.Sound := by
  simp only [rowsJumpMove, List.forall_mem_cons]
  exact ⟨of_rowR1, of_rowR1, of_rowR1, of_rowR1, of_rowR1, of_rowR1, of_rowR1, of_rowNone, of_rowRR1, of_rowRR1,
    of_rowRR1, nofun⟩

theorem rowsArithmeticBitwise_sound : ∀ row ∈ rowsArithmeticBitwise, row.Sound := by
  simp only [rowsArithmeticBitwise, List.forall_mem_cons]
  exact ⟨of_rowA2, of_rowA2, of_rowA2, of_rowA2, of_rowA2, of_rowNone, of_rowNone, of_rowR1, of_rowR1, of_rowRR1,
    of_rowRR1, of_rowRR1, nofun⟩

theorem rowsSubroutineShift_sound : ∀ row ∈ rowsSubroutineShift, row.Sound := by
  simp only [rowsSubroutineShift, List.forall_mem_cons]
  exact ⟨of_rowV1, of_rowL3, of_rowNone, of_rowNone, of_rowR1, of_rowRL3, of_rowA2, of_rowA2, of_rowNone, of_rowI2,
    of_rowRL3, of_rowA2, of_rowA2, of_rowA2, of_rowA2, nofun⟩

theorem rowsBranchIndexed_sound : ∀ row ∈ rowsBranchIndexed, row.Sound := by
  simp only [rowsBranchIndexed, List.forall_mem_cons]
  exact ⟨of_rowM2, of_rowI2, of_rowI2, of_rowI2, of_rowI2, of_rowI2, of_rowI2, of_rowI2, of_rowX2, of_rowX2, of_rowY2,
    of_rowY2, of_rowRL3, of_rowR1, of_rowR1, nofun⟩

/-- Every row of the map is sound. -/
theorem opcodeMap_sound : ∀ row ∈ opcodeMap, row.Sound := by
  simp only [opcodeMap, List.forall_mem_append]
  exact ⟨⟨⟨⟨rowsControl_sound, rowsJumpMove_sound⟩, rowsArithmeticBitwise_sound⟩, rowsSubroutineShift_sound⟩,
    rowsBranchIndexed_sound⟩

end

/-! ### What `decode` answers (R104) -/

/-- Everything `decode` can answer is what a sound row, selected by the first byte, reads. -/
theorem decode_ok_sound {bs rest : List Byte} {i : Instr} (h : decode bs = .ok (i, rest)) :
    ∃ (b0 : Byte) (tl : List Byte) (row : OpcodeRow), bs = b0 :: tl ∧ row.Sound ∧ b0 &&& row.mask = row.pattern ∧
      fetchLength b0 = row.length.getD 1 ∧ fetchLength b0 - 1 ≤ tl.length ∧
      i = row.build b0 (tl.getD 0 0) (tl.getD 1 0) ∧ rest = tl.drop (fetchLength b0 - 1) := by
  obtain ⟨b0, tl, row, hbs, hrow, hl, hi, hrest⟩ := decode_ok h
  obtain ⟨hmem, hsel⟩ := rowOf_eq_some_iff.1 hrow
  exact ⟨b0, tl, row, hbs, opcodeMap_sound row hmem, OpcodeRow.selects_iff.1 hsel, fetchLength_of_row hrow, hl, hi,
    hrest⟩

/-- Settles O3: a sound row reads well-formed instructions. -/
theorem decodedInstructionsAreWellFormed : Obligations.DecodedInstructionsAreWellFormed := by
  intro bs rest i h
  obtain ⟨b0, tl, row, -, hsound, -, -, -, rfl, -⟩ := decode_ok_sound h
  exact hsound.wellFormed _ _ _

/-- The bytes a row reads, and what is left after them, are the bytes that were given. -/
theorem take_append_drop_getD {n : Nat} (b0 : Byte) {tl : List Byte} (hn : 1 ≤ n ∧ n ≤ 3) (hl : n - 1 ≤ tl.length) :
    [b0, tl.getD 0 0, tl.getD 1 0].take n ++ tl.drop (n - 1) = b0 :: tl := by
  obtain rfl | rfl | rfl : n = 1 ∨ n = 2 ∨ n = 3 := by omega
  · rfl
  · match tl, hl with
    | _ :: _, _ => rfl
  · match tl, hl with
    | _ :: _ :: _, _ => rfl

/-- What is decoded is written back, unless some of its bits are ignored (R91, R98). -/
theorem encode_append_of_decode {bs rest : List Byte} {i : Instr} (h : decode bs = .ok (i, rest)) :
    encode i ++ rest = bs ∨ i.HasIgnoredBits := by
  obtain ⟨b0, tl, row, rfl, hsound, hsel, hlen, hl, rfl, rfl⟩ := decode_ok_sound h
  refine (hsound.restores b0 (tl.getD 0 0) (tl.getD 1 0) hsel).imp_left fun he => ?_
  rw [he, ← hlen]
  exact take_append_drop_getD b0 (fetchLength_bounds b0) hl

/-- Settles O2: an instruction with ignored bits is one of those the statement leaves out. -/
theorem encodeRestoresDecodedBytes : Obligations.EncodeRestoresDecodedBytes := by
  intro bs rest i h
  obtain he | ⟨p, hp, m, v, rfl⟩ | ⟨z, c, s, rfl⟩ := encode_append_of_decode h
  · split <;> trivial
  · clear h
    revert p
    simp [a2Forms]
  · trivial

end Sys2Proof
end

section
/-! PROOFS. What an instruction can answer: the thirteen reserved and unassigned rows stop with U1 and no other does
(spec/30_encoding.md R96, R97), and nothing is refused (R95, R104). -/

namespace Sys2Proof.Machine

/-! ### The answers of an instruction that is no reserved row -/

/-- The answer of an instruction proper: it goes on or stops, and the stop is not that of a reserved row. -/
def Result.Proper : Result → Prop
  | .next _ => True
  | .fault (.reservedOpcode _) => False
  | .fault _ => True
  | .refused _ => False

theorem State.withByte_proper {s : State} {a : Word} {k : Byte → Result} (hk : ∀ b, Result.Proper (k b)) :
    Result.Proper (s.withByte a k) := by
  cases hb : s.readByte a with
  | none => rw [State.withByte_none hb]; trivial
  | some b => rw [State.withByte_some hb]; exact hk b

theorem State.withWord_proper {s : State} {a : Word} {k : Word → Result} (hk : ∀ w, Result.Proper (k w)) :
    Result.Proper (s.withWord a k) :=
  State.withByte_proper fun _ => State.withByte_proper fun _ => hk _

theorem State.pop16_proper {s : State} {k : Word → State → Result} (hk : ∀ w t, Result.Proper (k w t)) :
    Result.Proper (s.pop16 k) :=
  State.withByte_proper fun _ => State.withByte_proper fun _ => hk _ _

theorem State.loadHigh_proper (s : State) (m : Reg) (a : Word) (n : Nat) : Result.Proper (s.loadHigh m a n) :=
  State.withByte_proper fun _ => trivial

/-- A choice between two proper answers (INT, RET, the zero divisor, the shift amounts). -/
theorem ite_proper {c : Prop} [Decidable c] {x y : Result} (hx : Result.Proper x) (hy : Result.Proper y) :
    Result.Proper (if c then x else y) := by
  split
  · exact hx
  · exact hy

theorem State.divide_proper (s : State) (m : Reg) (o : A2Operand) (pick : Word × Word → Word) :
    Result.Proper (s.divide m o pick) := ite_proper trivial trivial

theorem State.shift_proper (s : State) (m : Reg) (o : A2Operand) (value : Word → Nat → Word) :
    Result.Proper (s.shift m o value) := ite_proper trivial (ite_proper trivial trivial)

theorem State.shiftCarry_proper (s : State) (m : Reg) (o : A2Operand) (value : Word → Nat → Word)
    (carry : Word → Nat → Bool) : Result.Proper (s.shiftCarry m o value carry) :=
  ite_proper trivial (ite_proper trivial trivial)

/-- Every instruction that is no reserved row answers properly. -/
theorem exec_proper {i : Instr} (hi : kind i ≠ .reserved) (s : State) : Result.Proper (exec i s) := by
  cases i
  case reserved07 | reserved0B | reserved0C | reserved18 | reserved1C | reserved1E | unassigned20 | reserved40
    | reserved85 | reserved86 | unassignedD1 | unassignedD2 | reservedDE => exact absurd rfl hi
  case int | ret => exact ite_proper trivial trivial
  case lod | laa | ldi | lri => exact s.loadHigh_proper _ _ _
  case div | mod => exact s.divide_proper _ _ _
  case rol | ror | shl => exact s.shift_proper _ _ _
  case shr => rw [exec_shr]; exact s.shift_proper _ _ _
  case scl => rw [exec_scl]; exact s.shiftCarry_proper _ _ _ _
  case scr => rw [exec_scr]; exact s.shiftCarry_proper _ _ _ _
  case pop => rw [exec_pop]; exact State.pop16_proper fun _ _ => trivial
  case rcl => rw [exec_rcl]; exact State.pop16_proper fun _ _ => trivial
  case rcr => rw [exec_rcr]; exact State.withWord_proper fun _ => State.withWord_proper fun _ => trivial
  all_goals trivial

/-- The reserved and unassigned rows stop with U1, in every state (R96, R97). -/
theorem exec_reserved {i : Instr} (hi : kind i = .reserved) (s : State) :
    ∃ b, exec i s = .fault (.reservedOpcode b) := by
  cases i
  case reserved07 | reserved0B | reserved0C | reserved18 | reserved1C | reserved1E | unassigned20 | reserved40
    | reserved85 | reserved86 | unassignedD1 | unassignedD2 | reservedDE => exact ⟨_, rfl⟩
  all_goals nomatch hi

/-- The stop of U1 is that of the reserved and unassigned rows alone. -/
theorem kind_eq_reserved_iff (i : Instr) (s : State) :
    kind i = .reserved ↔ ∃ b, exec i s = .fault (.reservedOpcode b) := by
  refine ⟨fun hi => exec_reserved hi s, fun ⟨b, hb⟩ => Classical.byContradiction fun hi => ?_⟩
  have hproper := exec_proper hi s
  rw [hb] at hproper
  exact hproper

/-! ### No refusal -/

theorem exec_ne_refused (i : Instr) (s : State) (r : Refusal) : exec i s ≠ .refused r := by
  intro h
  by_cases hi : kind i = .reserved
  · obtain ⟨b, hb⟩ := exec_reserved hi s
    nomatch hb.symm.trans h
  · have hproper := exec_proper hi s
    rw [h] at hproper
    exact hproper

/-- What a fetch answers decodes, so it is executed. -/
theorem State.runInstruction_ne_refused (s : State) (r : Refusal) : s.runInstruction ≠ .refused r := by
  cases hf : s.fetch with
  | error f => simp [State.runInstruction, hf]
  | ok bs =>
    obtain ⟨i, hi⟩ := State.fetch_decodes hf
    simpa [State.runInstruction, hf, hi] using exec_ne_refused i s r

/-- Settles O46: of the four outcomes of a boundary only the instruction run could be a refusal. -/
theorem stepNeverRefuses : Obligations.StepNeverRefuses := by
  intro s r
  unfold step State.boundary
  dsimp only
  split
  · nofun
  · split
    · nofun
    · split
      · nofun
      · exact s.arrive.runInstruction_ne_refused r

end Sys2Proof.Machine
end

section
/-! PROOFS. The assembler (spec/30_encoding.md R100 to R103): the statement of an instruction is read back, operand form by
operand form, and a label is its address or the displacement that leads to it. -/

namespace Sys2Proof

open Machine

/-! ### Operands -/

theorem asmBits_toNat {w : Nat} (v : BitVec w) : asmBits w v.toNat = some v := by
  rw [asmBits, if_pos v.isLt, BitVec.ofNat_toNat, BitVec.setWidth_eq]

/-- The second operand of a well-formed A2 instruction is read back (R102). -/
theorem A2Operand.a2_asm {o : A2Operand} (h : o.wellFormed = true) : o.asm.a2 = some o := by
  cases o with
  | reg l => rfl
  | imm v =>
    have hv : v ≠ 0#4 := by simpa [A2Operand.wellFormed] using h
    have hrange : 1 ≤ v.toNat ∧ v.toNat ≤ 15 := by bv_omega
    simp only [A2Operand.asm, AsmOperand.a2, if_pos hrange, BitVec.ofNat_toNat, BitVec.setWidth_eq]

/-! ### Statements, by their last operand -/

section
variable {here : Word} {st : AsmStatement}

/-- Where the last operand is a number read in `w` bits, the number of a `w`-bit value is read back. -/
theorem assemble_of_asmBits {w : Nat} {v : BitVec w} {f : BitVec w → Instr}
    (h : assemble here st = (asmBits w v.toNat).map f) : assemble here st = some (f v) := by
  rw [h, asmBits_toNat, Option.map_some]

theorem assemble_cli (z c s : Bool) :
    assemble here ⟨"CLI", [.num (byteM2 z c s).toNat]⟩ = some (.cli z c s) := by
  have hbyte := assemble_of_asmBits (here := here) (st := ⟨"CLI", [.num (byteM2 z c s).toNat]⟩)
    (f := fun k => .cli (k.getLsbD 7) (k.getLsbD 6) (k.getLsbD 5)) rfl
  obtain ⟨hz, hc, hs⟩ := byteM2_bits z c s
  rwa [hz, hc, hs] at hbyte

/-- A mnemonic of format A2 takes a register or a number; no mnemonic that takes two registers alone is one. -/
theorem assemble_a2 {name : String} {f : Reg → A2Operand → Instr} {m : Reg} {o : A2Operand}
    (ho : o.wellFormed = true) (hreg : ∀ l, asmRegReg m l name = none)
    (hother : asmRegOther m o.asm name = o.asm.a2.map (f m)) :
    assemble here ⟨name, [.reg m, o.asm]⟩ = some (f m o) := by
  have hread : assemble here ⟨name, [.reg m, o.asm]⟩ = asmRegOther m o.asm name := by
    cases o with
    | reg l => simp only [assemble, A2Operand.asm, hreg, Option.none_or]
    | imm v => rfl
  rw [hread, hother, A2Operand.a2_asm ho, Option.map_some]

end

/-- The statement of a well-formed instruction is read back, wherever it stands (R101, R102). -/
theorem assemble_statement {i : Instr} {st : AsmStatement} (here : Word) (hw : i.wellFormed = true)
    (h : i.statement = some st) : assemble here st = some i := by
  cases i
  case reserved07 | reserved0B | reserved0C | reserved18 | reserved1C | reserved1E | unassigned20 | reserved40
    | reserved85 | reserved86 | unassignedD1 | unassignedD2 | reservedDE => nomatch h
  all_goals obtain rfl := Option.some.inj h
  case add | sub | mul | div | mod | scl | scr | rol | ror | shl | shr => exact assemble_a2 hw (fun _ => rfl) rfl
  case ljp | cal | car | laa | mvi | rcl | irf | jmp | jiz | jnz | jlt | jge | jof | jnf | ldi | sti | lri | sri =>
    exact assemble_of_asmBits rfl
  case cli => exact assemble_cli _ _ _
  all_goals rfl

theorem statement_eq_none_iff (i : Instr) : i.statement = none ↔ kind i = .reserved := by
  cases i <;> simp [Instr.statement, kind]

/-! ### Labels of local branches (R100, R266) -/

theorem setWidth_sext8 (d : Byte) : (sext8 d).setWidth 8 = d := by
  revert d; decide +kernel

/-- A label is read as the displacement that leads to it, if there is one. -/
theorem displacement_label_eq_some_iff {here a : Word} {d : Byte} :
    (AsmOperand.label a).displacement here = some d ↔ a - here = sext8 d := by
  rw [AsmOperand.displacement]
  constructor
  · intro h
    obtain ⟨hsext, hd⟩ := Option.ite_none_right_eq_some.1 h
    rw [← Option.some.inj hd, hsext]
  · intro h
    rw [h, setWidth_sext8, if_pos rfl]

/-- The distance to the target of a displacement as a number: signed, modulo 2^16 (R266). -/
theorem sub_eq_sext8_iff {here a : Word} {d : Byte} :
    a - here = sext8 d ↔ (a.toNat : Int) = ((here.toNat : Int) + d.toInt) % 65536 := by
  have hsext : (sext8 d).toNat = (d.toInt % 65536).toNat := BitVec.toNat_ofInt d.toInt
  rw [← BitVec.toNat_inj, BitVec.toNat_sub, hsext]
  have ha := a.isLt
  have hhere := here.isLt
  omega

/-- The local branches, each with its instruction. -/
def localBranches : List (String × (Byte → Instr)) :=
  [("JMP", .jmp), ("JIZ", .jiz), ("JNZ", .jnz), ("JLT", .jlt), ("JGE", .jge), ("JOF", .jof), ("JNF", .jnf)]

theorem assemble_localBranch_label (here a : Word) : ∀ p ∈ localBranches,
    assemble here ⟨p.1, [.label a]⟩ = ((AsmOperand.label a).displacement here).map p.2 := by
  simp only [localBranches, List.forall_mem_cons]
  exact ⟨rfl, rfl, rfl, rfl, rfl, rfl, rfl, nofun⟩

/-- Settles O8: `assemble_statement`, the rows that have no statement, the labels that stand for an address, and those
that stand for a displacement. -/
theorem assembleReadsStatement : Obligations.AssembleReadsStatement := by
  refine ⟨fun i here st hw h => assemble_statement here hw h, fun i => ?_, fun _ _ _ => ⟨rfl, rfl, rfl, rfl, rfl⟩, ?_⟩
  · rw [statement_eq_none_iff]
    exact ⟨exec_reserved, fun h => (kind_eq_reserved_iff i State.reset).2 (h State.reset)⟩
  · intro here a name f hbranch
    rw [assemble_localBranch_label here a (name, f) hbranch]
    refine ⟨fun d hd => ?_, fun hfar => ?_⟩
    · rw [displacement_label_eq_some_iff.2 (sub_eq_sext8_iff.2 hd), Option.map_some]
    · rw [Option.map_eq_none_iff, Option.eq_none_iff_forall_ne_some]
      exact fun d hd => hfar d (sub_eq_sext8_iff.1 (displacement_label_eq_some_iff.1 hd))

end Sys2Proof
end

section
/-! PROOFS. Control and compare (spec/40_control.md): the whole next state of NOP, SWP, INT, ENI, DEI, RST, HLT, CMP, CMU
and RET. -/

namespace Sys2Proof.Machine

/-! ### Whether an interrupt can be accepted: IE = 1 and INH = 0 (R131, R135, R315) -/

theorem State.accepts_iff {s : State} : (s.ie && !s.inh) = true ↔ s.ie = true ∧ s.inh = false := by
  rw [Bool.and_eq_true, Bool.not_eq_true']

theorem State.accepts_eq_false {s : State} (h : ¬(s.ie = true ∧ s.inh = false)) : (s.ie && !s.inh) = false :=
  Bool.eq_false_iff.2 (h ∘ State.accepts_iff.1)

/-! ### INT and HLT with their case decided -/

theorem exec_int_accepted {s : State} (h : s.ie = true ∧ s.inh = false) :
    exec .int s = .next (s.interruptEntry (s.pc + 1#16)) := if_pos (State.accepts_iff.2 h)

theorem exec_int_not_accepted {s : State} (h : ¬(s.ie = true ∧ s.inh = false)) :
    exec .int s = .fault .intNotAccepted := if_neg (h ∘ State.accepts_iff.1)

theorem exec_hlt (s : State) :
    exec .hlt s = .next { s with
      rf := 0#8
      pc := s.pc + 1#16
      sleep := s.sleep || (s.ie && !s.inh)
      stuck := s.stuck || !(s.ie && !s.inh) } := rfl

/-- HLT of a machine that an interrupt can wake: it sleeps (R135). -/
theorem exec_hlt_sleeps {s : State} (h : s.ie = true ∧ s.inh = false) :
    exec .hlt s = .next { s with rf := 0#8, pc := s.pc + 1#16, sleep := true } := by
  rw [exec_hlt, State.accepts_iff.2 h, Bool.or_true, Bool.not_true, Bool.or_false]

/-- HLT of a machine that nothing could wake: it is stuck (U8, log 12). -/
theorem exec_hlt_sticks {s : State} (h : ¬(s.ie = true ∧ s.inh = false)) :
    exec .hlt s = .next { s with rf := 0#8, pc := s.pc + 1#16, stuck := true } := by
  rw [exec_hlt, State.accepts_eq_false h, Bool.or_false, Bool.not_false, Bool.or_true]

/-- A stuck machine takes no step (U8, log 12). -/
theorem step_stuck {s : State} (h : s.stuck = true) : step s = .fault .stuckAfterHlt := if_pos h

/-! ### What the comparisons write (R137, R139) -/

theorem exec_cmp (s : State) : exec .cmp s = .next (s.compareSigned.advance 1) := rfl

theorem exec_cmu (s : State) : exec .cmu s = .next (s.compareUnsigned.advance 1) := rfl

theorem State.compareSigned_eq (s : State) :
    s.compareSigned =
      { s with rs := ⟨decide (s.ax = s.bx), s.rs.c, decide (s.ax.toInt < s.bx.toInt)⟩ } := by
  rw [State.compareSigned, Bool.beq_eq_decide_eq, BitVec.slt_eq_decide]

theorem State.compareUnsigned_eq (s : State) :
    s.compareUnsigned =
      { s with rs := ⟨decide (s.ax = s.bx), s.rs.c, decide (s.ax.toNat < s.bx.toNat)⟩ } := by
  rw [State.compareUnsigned, Bool.beq_eq_decide_eq, BitVec.ult_eq_decide]

/-! ### The statements -/

/-- Settles O9: the meanings of NOP and SWP are the advance, and the advance after the event. -/
theorem nopAndSwpOnlyAdvance : Obligations.NopAndSwpOnlyAdvance :=
  ⟨.of_encode rfl rfl, .of_encode rfl rfl, fun _ => ⟨rfl, rfl⟩⟩

/-- Settles O10: the interrupt entry where INT is accepted, the stop elsewhere. -/
theorem intEntersTheRoutine : Obligations.IntEntersTheRoutine :=
  ⟨.of_encode rfl rfl, fun _ => ⟨exec_int_accepted, exec_int_not_accepted⟩⟩

/-- Settles O11: ENI and DEI are assignments followed by the advance. -/
theorem eniAndDeiWriteInterruptEnable : Obligations.EniAndDeiWriteInterruptEnable :=
  ⟨.of_encode rfl rfl, .of_encode rfl rfl, fun _ => ⟨rfl, rfl⟩⟩

/-- Settles O12: the unspecified values are the draws of `drawnResetValues`, which move the counter past themselves. -/
theorem rstResetsTheMachine : Obligations.RstResetsTheMachine :=
  ⟨.of_encode rfl rfl, fun s =>
    ⟨drawnResetValues s.draws, s.draws + resetDraws, Nat.lt_add_of_pos_right (by decide), rfl⟩⟩

/-- Settles O13: HLT in its two cases, and the stop of a stuck machine. -/
theorem hltSleepsOrSticks : Obligations.HltSleepsOrSticks :=
  ⟨.of_encode rfl rfl, fun _ _ _ =>
    ⟨exec_hlt_sleeps, fun h => ⟨_, exec_hlt_sticks h, rfl, step_stuck rfl⟩⟩⟩

/-- Settles O14: the order that `compareSigned` and `compareUnsigned` test is that of the values as numbers. -/
theorem comparesSetZeroAndSign : Obligations.ComparesSetZeroAndSign := by
  refine ⟨.of_encode rfl rfl, .of_encode rfl rfl, fun s => ⟨?_, ?_⟩⟩
  · rw [exec_cmp, State.compareSigned_eq]
    rfl
  · rw [exec_cmu, State.compareUnsigned_eq]
    rfl

/-- Settles O15: the return from the routine where IS has been filled, INH set or not, and the stop where it has not. -/
theorem retRestoresTheContext : Obligations.RetRestoresTheContext :=
  ⟨.of_encode rfl rfl, fun _ => ⟨exec_ret_valid, fun h => if_neg (Bool.eq_false_iff.1 h)⟩⟩

end Sys2Proof.Machine
end

section
/-! PROOFS. Every step keeps the invariant of the machine (spec/60_exceptions.md R317, R320, R327, R328). -/

namespace Sys2Proof.Machine

/-- Every kind of instruction keeps the canonical form of memory: the storing kinds write byte by byte, the others leave
memory alone. -/
theorem Effect.mem_wf {n : Nat} {s t : State} {k : Kind} (e : Effect n s k t) (h : s.mem.wf = true) :
    t.mem.wf = true := by
  cases e with
  | system _ hmem => rwa [hmem]
  | store a b => exact s.writeByte_wf a b h
  | push v | call v => exact s.push16_wf v h
  | callContext a v b w => exact State.writeWord_wf _ b w (s.writeWord_wf a v h)
  | _ => exact h

/-- Of a machine that is awake and not stuck the invariant says two things: memory is canonical, and IS is filled in the
routine. -/
theorem State.inv_of_running {s : State} (hmem : s.mem.wf = true) (hsleep : s.sleep = false) (hstuck : s.stuck = false)
    (his : s.inh = true → s.is.valid = true) : s.Inv :=
  ⟨hmem, fun h => (nomatch hsleep.symm.trans h), his, fun h => (nomatch hstuck.symm.trans h)⟩

/-- The arrival of events moves RF alone of what the invariant reads, and only a stuck machine must keep RF (R313). -/
theorem State.Inv.arrive {s : State} (h : s.Inv) (hstuck : s.stuck = false) : s.arrive.Inv := by
  obtain ⟨hmem, hsleep, his, -⟩ := h
  exact ⟨hmem, hsleep, his, fun hs => (nomatch hstuck.symm.trans hs)⟩

/-- An entry wakes the machine and fills IS (R317). -/
theorem State.Inv.interruptEntry {s : State} (h : s.Inv) (hstuck : s.stuck = false) (ret : Word) :
    (s.interruptEntry ret).Inv := by
  obtain ⟨hmem, -, -, -⟩ := h
  exact State.inv_of_running hmem rfl hstuck fun _ => rfl

/-- HLT sleeps only where an interrupt can wake the machine, and leaves RF clear and the machine awake where it sticks
(R135). -/
theorem exec_hlt_keeps_inv {s t : State} (hinv : s.Inv) (hstuck : s.stuck = false) (hsleep : s.sleep = false)
    (h : exec .hlt s = .next t) : t.Inv := by
  obtain ⟨hmem, -, his, -⟩ := hinv
  by_cases hwake : s.ie = true ∧ s.inh = false
  · rw [exec_hlt_sleeps hwake] at h
    obtain rfl := Host.Outcome.next.inj h
    exact ⟨hmem, fun _ => hwake, his, fun hs => (nomatch hstuck.symm.trans hs)⟩
  · rw [exec_hlt_sticks hwake] at h
    obtain rfl := Host.Outcome.next.inj h
    refine ⟨hmem, fun hs => (nomatch hsleep.symm.trans hs), his, fun _ => ⟨rfl, hsleep, fun hie => ?_⟩⟩
    exact Bool.of_not_eq_false fun hinh => hwake ⟨hie, hinh⟩

/-- An instruction that an awake machine executes keeps the invariant. Outside the system instructions the control state
is unchanged; of those, INT fills IS as it enters the routine, RET and RST leave the routine, and HLT has its own
lemma. -/
theorem exec_keeps_inv {i : Instr} {s t : State} (hinv : s.Inv) (hstuck : s.stuck = false) (hsleep : s.sleep = false)
    (h : exec i s = .next t) : t.Inv := by
  have ⟨hmem, _, his, _⟩ := hinv
  have hmem' : t.mem.wf = true := (exec_effect h).mem_wf hmem
  cases i
  case hlt => exact exec_hlt_keeps_inv hinv hstuck hsleep h
  case int => obtain ⟨-, rfl⟩ := exec_int_next h; exact hinv.interruptEntry hstuck _
  case ret => obtain ⟨-, rfl⟩ := exec_ret_next h; exact State.inv_of_idle hmem' hsleep rfl hstuck
  case rst => obtain rfl := Host.Outcome.next.inj h; exact State.inv_of_idle hmem' rfl rfl hstuck
  case eni | dei | swp =>
    obtain rfl := Host.Outcome.next.inj h
    exact State.inv_of_running hmem' hsleep hstuck his
  all_goals
    have hc := (exec_effect h).sameControl nofun
    refine State.inv_of_running hmem' (hc.sleep.trans hsleep) (hc.stuck.trans hstuck) fun hinh => ?_
    rw [hc.is]
    exact his (hc.inh.symm.trans hinh)

/-- Settles O58: a machine that steps is not stuck, so the arrival of events keeps the invariant, and so does each of
the three things a step does after it: enter the routine, sleep on, or execute one instruction. -/
theorem stepKeepsTheInvariant : Obligations.StepKeepsTheInvariant := by
  intro s t hinv h
  obtain ⟨hstuck, hcases⟩ := step_next h
  have harrive : s.arrive.Inv := hinv.arrive hstuck
  rcases hcases with ⟨-, rfl⟩ | ⟨-, -, rfl⟩ | ⟨-, hsleep, i, hi⟩
  · exact harrive.interruptEntry hstuck s.pc
  · exact harrive
  · exact exec_keeps_inv harrive hstuck hsleep hi

end Sys2Proof.Machine
end

section
/-! PROOFS. Stack, jumps, move, load and store (spec/41_stack_jump_move.md), with the loads, stores and the move of
spec/46_irf_laa.md and spec/49_indexed_immediate_inc.md that share their operations. -/

namespace Sys2Proof

/-! ### The bytes the encoder writes, as the opcode tables give them: a pattern plus its selectors (R91, R95) -/

theorem byteR_eq_add (op : BitVec 6) (r : Reg) : byteR op r = (op ++ 0#2) + r.code.setWidth 8 := by
  cases r <;> (revert op; decide)

theorem byteRR_eq_add (op : BitVec 4) (m l : Reg) :
    byteRR op m l = (op ++ 0#4) + 4#8 * m.code.setWidth 8 + l.code.setWidth 8 := by
  cases m <;> cases l <;> (revert op; decide)

theorem byteY2_eq_append (v : BitVec 2) (m d l : Reg) :
    byteY2 v m d l = ((v ++ m.code : BitVec 4) ++ d.code : BitVec 6) ++ l.code :=
  (BitVec.append_assoc (x₁ := (v ++ m.code : BitVec 4)) (x₂ := d.code) (x₃ := l.code)).symm

/-- Format R1 with the selector added to the pattern. -/
theorem Decodes.of_encode_byteR {op : BitVec 6} {r : Reg} {i : Instr} (hw : i.wellFormed = true)
    (he : encode i = [byteR op r]) : Decodes [(op ++ 0#2) + r.code.setWidth 8] i :=
  .of_encode hw (byteR_eq_add op r ▸ he)

/-- Format RR1 with the selectors added to the pattern. -/
theorem Decodes.of_encode_byteRR {op : BitVec 4} {m l : Reg} {i : Instr} (hw : i.wellFormed = true)
    (he : encode i = [byteRR op m l]) : Decodes [(op ++ 0#4) + 4#8 * m.code.setWidth 8 + l.code.setWidth 8] i :=
  .of_encode hw (byteRR_eq_add op m l ▸ he)

/-- Format Y2 with its four fields side by side. -/
theorem Decodes.of_encode_byteY2 {p : Byte} {v : BitVec 2} {m d l : Reg} {i : Instr} (hw : i.wellFormed = true)
    (he : encode i = [p, byteY2 v m d l]) : Decodes [p, ((v ++ m.code : BitVec 4) ++ d.code : BitVec 6) ++ l.code] i :=
  .of_encode hw (byteY2_eq_append v m d l ▸ he)

/-- Format L3 with the two bytes of its address given. -/
theorem Decodes.of_encode_joinBytes {p b1 b2 : Byte} {i : Instr} (hw : i.wellFormed = true)
    (he : encode i = [p, hiByte (joinBytes b1 b2), loByte (joinBytes b1 b2)]) : Decodes [p, b1, b2] i :=
  .of_encode hw (by rw [he, hiByte_joinBytes, loByte_joinBytes])

/-- Format RL3 with the selector added to the pattern and the two bytes of its address or value given. -/
theorem Decodes.of_encode_byteR_joinBytes {op : BitVec 6} {r : Reg} {b1 b2 : Byte} {i : Instr}
    (hw : i.wellFormed = true)
    (he : encode i = [byteR op r, hiByte (joinBytes b1 b2), loByte (joinBytes b1 b2)]) :
    Decodes [(op ++ 0#2) + r.code.setWidth 8, b1, b2] i :=
  .of_encode_joinBytes hw (byteR_eq_add op r ▸ he)

namespace Machine

/-! ### What the shared operations do, as the statements say it -/

/-- A kind that keeps the flags is none of the two that move the draw counter. -/
theorem Kind.keepsDraws_of_keepsFlags {k : Kind} (h : k.keepsFlags = true) : k.keepsDraws = true := by
  cases k with
  | system | drawing => nomatch h
  | _ => rfl

/-- A kind that keeps the flags keeps all of the system state. -/
theorem Effect.sameSystem {n : Nat} {s t : State} {k : Kind} (e : Effect n s k t) (hk : k.keepsFlags = true) :
    s.SameSystem t := by
  have hc : s.SameControl t := e.sameControl (by rintro rfl; nomatch hk)
  exact ⟨e.rs_eq hk, hc.rf, hc.ie, hc.inh, hc.sleep, hc.is, e.env_eq, hc.output,
    e.draws_eq (Kind.keepsDraws_of_keepsFlags hk), hc.stuck⟩

theorem State.jumpIf_eq (s : State) (c : Bool) (a : Word) (n : Nat) :
    s.jumpIf c a n = { s with pc := if c = true then a else s.pc + BitVec.ofNat 16 n } := by
  cases c <;> rfl

theorem State.jumpIf_not_eq (s : State) (c : Bool) (a : Word) (n : Nat) :
    s.jumpIf (!c) a n = { s with pc := if c = false then a else s.pc + BitVec.ofNat 16 n } := by
  cases c <;> rfl

theorem exec_sti (m l : Reg) (v : BitVec 4) (s : State) :
    exec (.sti m l v) s = s.storeHigh l (s.get m + BitVec.ofNat 16 v.toNat) 2 := by
  rw [BitVec.ofNat_toNat]; rfl

theorem exec_sri (m d l : Reg) (v : BitVec 2) (s : State) :
    exec (.sri m d l v) s = s.storeHigh l (s.get d + s.get m + BitVec.ofNat 16 v.toNat) 2 := by
  rw [BitVec.ofNat_toNat]; rfl

/-! ### The statements -/

/-- Settles O16: the two bytes of the push are the halves of the register as it was before SP moved, PUS SP included. -/
theorem pusStoresTheRegister : Obligations.PusStoresTheRegister := by
  refine ⟨fun r => .of_encode_byteR (op := 0b000100) rfl rfl, fun s r => ?_⟩
  have hjoin : (hiByte (s.get r)).toNat * 256 + (loByte (s.get r)).toNat = (s.get r).toNat := by
    rw [← toNat_joinBytes, joinBytes_hiByte_loByte]
  have hhigh : (s.push16 (s.get r)).readByte (s.sp - 1#16) = some (hiByte (s.get r)) :=
    State.readByte_push16_stored rfl (by simp)
  have hlow : (s.push16 (s.get r)).readByte s.sp = some (loByte (s.get r)) :=
    State.readByte_push16_stored rfl (by simp)
  refine ⟨(s.push16 (s.get r)).advance 1, rfl, ⟨_, _, hhigh, hlow, hjoin⟩, s.push16_sp _, rfl, rfl, rfl, rfl,
    (Effect.push (n := 1) _).sameSystem rfl, fun a hlo hhi => ?_⟩
  have hframe := s.readByte_push16 (s.get r) a
  rwa [if_neg hhi, if_neg hlo] at hframe

/-- Settles O17: the register is written after SP has moved, so `set` overwrites the moved SP where POP names it. -/
theorem popLoadsTheRegister : Obligations.PopLoadsTheRegister := by
  refine ⟨fun r => .of_encode_byteR (op := 0b000101) rfl rfl, fun s r hi lo hhi hlo => ?_⟩
  refine ⟨joinBytes hi lo, toNat_joinBytes hi lo, ?_⟩
  rw [exec_pop, State.pop16_some hhi hlo]
  rfl

/-- Settles O21: the four loads are `loadHigh` at their addresses, and the word it writes joins the byte read to the old
low byte. -/
theorem loadsWriteTheHighByte : Obligations.LoadsWriteTheHighByte := by
  refine ⟨fun m l => .of_encode_byteRR (op := 0b0110) rfl rfl,
    fun r _ _ => .of_encode_byteR_joinBytes (op := 0b111000) rfl rfl, fun _ _ _ => .of_encode rfl rfl,
    fun _ _ _ _ => .of_encode_byteY2 rfl rfl, fun s m d l b => ?_⟩
  refine ⟨joinBytes b (loByte (s.get m)), ?_, State.loadHigh_some, fun _ => State.loadHigh_some, fun k h => ?_,
    fun k h => ?_⟩
  · rw [toNat_joinBytes, toNat_loByte]
  · rw [exec_ldi]
    exact State.loadHigh_some h
  · rw [exec_lri]
    exact State.loadHigh_some h

/-- Settles O22: each of the three stores is `storeHigh` at its address, which writes one byte and advances. -/
theorem storesWriteTheHighByte : Obligations.StoresWriteTheHighByte := by
  refine ⟨fun m l => .of_encode_byteRR (op := 0b0111) rfl rfl, fun _ _ _ => .of_encode rfl rfl,
    fun _ _ _ _ => .of_encode_byteY2 rfl rfl, fun s m d l k4 k2 i a n hmem => ?_⟩
  have hexec : exec i s = s.storeHigh l a n := by
    simp only [List.mem_cons, Prod.mk.injEq, List.not_mem_nil, or_false] at hmem
    rcases hmem with ⟨rfl, rfl, rfl⟩ | ⟨rfl, rfl, rfl⟩ | ⟨rfl, rfl, rfl⟩
    · rfl
    · exact exec_sti m l k4 s
    · exact exec_sri m d l k2 s
  have hread (x : Word) : (s.writeByte a (hiByte (s.get l))).readByte x =
      if x = a then some (hiByte (s.get l)) else s.readByte x := State.readByte_writeByte s a x _
  refine ⟨_, hexec, ⟨_, (hread a).trans (if_pos rfl), toNat_hiByte _⟩, fun x hx => (hread x).trans (if_neg hx),
    State.get_congr rfl rfl rfl rfl, rfl, (Effect.store (n := n) a _).sameSystem rfl⟩

/-- Settles O19: the jumps on a flag and those on its complement are the two forms of `jumpIf`. -/
theorem jumpsReachAbsoluteTargets : Obligations.JumpsReachAbsoluteTargets := by
  refine ⟨fun _ _ => .of_encode_joinBytes rfl rfl, fun r => ⟨.of_encode_byteR (op := 0b001001) rfl rfl,
    .of_encode_byteR (op := 0b001010) rfl rfl, .of_encode_byteR (op := 0b001011) rfl rfl,
    .of_encode_byteR (op := 0b001100) rfl rfl, .of_encode_byteR (op := 0b001101) rfl rfl,
    .of_encode_byteR (op := 0b001110) rfl rfl, .of_encode_byteR (op := 0b001111) rfl rfl⟩, fun s a r => ?_⟩
  have htaken (c : Bool) : (.next (s.jumpIf c (s.get r) 1) : Result) =
      .next { s with pc := if c = true then s.get r else s.pc + 1#16 } := congrArg _ (s.jumpIf_eq c _ 1)
  have hnot (c : Bool) : (.next (s.jumpIf (!c) (s.get r) 1) : Result) =
      .next { s with pc := if c = false then s.get r else s.pc + 1#16 } := congrArg _ (s.jumpIf_not_eq c _ 1)
  exact ⟨rfl, rfl, htaken s.rs.z, hnot s.rs.z, htaken s.rs.s, hnot s.rs.s, htaken s.rs.c, hnot s.rs.c⟩

/-- Settles O20: the meanings of MOV and MVI are the assignment followed by the advance. -/
theorem movesWriteWholeRegisters : Obligations.MovesWriteWholeRegisters :=
  ⟨fun _ _ => .of_encode_byteRR (op := 0b0101) rfl rfl,
    fun _ _ _ => .of_encode_byteR_joinBytes (op := 0b111101) rfl rfl, fun _ _ _ _ => ⟨rfl, rfl⟩⟩

end Machine

end Sys2Proof
end

section
/-! PROOFS. Arithmetic (spec/42_arithmetic.md): ADD, SUB and MUL modulo 2^16, and DIV and MOD by the one `DivMod`. -/

namespace Sys2Proof

/-- An A2 row reads both forms, the low selector bits of the immediate form being ignored (R94, R98). -/
theorem DecodesA2.of_rowA2 {p : Byte} {f : Reg → A2Operand → Instr} (h : rowOf p = some (rowA2 p f)) :
    DecodesA2 p f := by
  intro v m l
  have hm : fieldMid (byteRR v m l) = m := fieldMid_byteRR v m l
  have ho : fieldA2 (byteRR v m l) = if v = 0#4 then .reg l else .imm v := by
    rw [fieldA2, fieldV4_byteRR, fieldLow_byteRR]
  exact .twoBytes h (fetchLength_of_row h) fun _ => congr (congrArg f hm) ho

namespace Machine

/-! ### The second operand as a word and as a number (R94, R180) -/

theorem State.toNat_operand (s : State) (o : A2Operand) : (s.operand o).toNat = s.operandNat o := by
  cases o with
  | reg l => rfl
  | imm v => exact BitVec.toNat_setWidth_of_le (by decide)

theorem State.operand_eq_ofNat (s : State) (o : A2Operand) : s.operand o = BitVec.ofNat 16 (s.operandNat o) := by
  rw [← s.toNat_operand, BitVec.ofNat_toNat, BitVec.setWidth_eq]

theorem State.operand_eq_zero_iff (s : State) (o : A2Operand) : s.operand o = 0#16 ↔ s.operandNat o = 0 := by
  rw [← s.toNat_operand]
  exact BitVec.toNat_eq

/-! ### The results as numbers modulo 2^16 (R182, R183, R184) -/

theorem State.get_add_operand (s : State) (m : Reg) (o : A2Operand) :
    s.get m + s.operand o = BitVec.ofNat 16 ((s.get m).toNat + s.operandNat o) := by
  rw [← s.toNat_operand]
  exact BitVec.add_def _ _

theorem State.get_sub_operand (s : State) (m : Reg) (o : A2Operand) :
    s.get m - s.operand o = BitVec.ofInt 16 ((s.get m).toNat - s.operandNat o) := by
  rw [s.operand_eq_ofNat, Int.sub_eq_add_neg, BitVec.ofInt_add, BitVec.ofInt_neg, BitVec.ofInt_natCast,
    BitVec.ofInt_natCast, BitVec.ofNat_toNat, BitVec.setWidth_eq, BitVec.sub_eq_add_neg]

theorem State.get_mul_operand (s : State) (m : Reg) (o : A2Operand) :
    s.get m * s.operand o = BitVec.ofNat 16 ((s.get m).toNat * s.operandNat o) := by
  rw [← s.toNat_operand]
  exact BitVec.mul_def

/-! ### The meanings as results with drawn flags (R181) -/

theorem exec_add (m : Reg) (o : A2Operand) (s : State) :
    exec (.add m o) s = s.writeDraw m (s.get m + s.operand o) 2 := rfl

theorem exec_sub (m : Reg) (o : A2Operand) (s : State) :
    exec (.sub m o) s = s.writeDraw m (s.get m - s.operand o) 2 := rfl

theorem exec_mul (m : Reg) (o : A2Operand) (s : State) :
    exec (.mul m o) s = s.writeDraw m (s.get m * s.operand o) 2 := rfl

theorem exec_div (m : Reg) (o : A2Operand) (s : State) : exec (.div m o) s = s.divide m o Prod.fst := rfl

theorem exec_mod (m : Reg) (o : A2Operand) (s : State) : exec (.mod m o) s = s.divide m o Prod.snd := rfl

/-- A result with drawn flags, as the statements say it: the destination and PC are as computed, the flags and the draw
counter are some values, and everything else is as it was (R28, R181). -/
theorem State.writeDraw_eq (s : State) (m : Reg) (v : Word) (n : Nat) :
    ∃ (f : Flags) (d : Nat),
      s.writeDraw m v n = .next { s.set m v with pc := s.pc + BitVec.ofNat 16 n, rs := f, draws := d } :=
  ⟨drawnFlags s.draws, s.draws + 3, rfl⟩

/-! ### DIV and MOD (R185, R186) -/

/-- The one law of `DivMod` (R185). -/
theorem divMod_law {a b : Word} (ha : a.toNat ≤ 0x7FFF) (hb : 1 ≤ b.toNat) (hb' : b.toNat ≤ 0x7FFF) :
    (divMod a b).1.toNat = a.toNat / b.toNat ∧
      (divMod a b).2.toNat = a.toNat - (divMod a b).1.toNat * b.toNat := by
  have hdiv : a.toNat / b.toNat < 2 ^ 16 := Nat.lt_of_le_of_lt (Nat.div_le_self _ _) a.isLt
  have hmod : a.toNat % b.toNat < 2 ^ 16 := Nat.lt_of_le_of_lt (Nat.mod_le _ _) a.isLt
  rw [divMod, if_pos ⟨ha, hb, hb'⟩, BitVec.toNat_ofNat, BitVec.toNat_ofNat, Nat.mod_eq_of_lt hdiv,
    Nat.mod_eq_of_lt hmod]
  exact ⟨rfl, by rw [Nat.mod_eq_sub_mul_div, Nat.mul_comm]⟩

/-- A zero divisor stops DIV and MOD (U2). -/
theorem State.divide_zero {s : State} {m : Reg} {o : A2Operand} {pick : Word × Word → Word} (h : s.operandNat o = 0) :
    s.divide m o pick = .fault .divideByZero := if_pos ((s.operand_eq_zero_iff o).2 h)

/-- With any other divisor they write the part of `DivMod` they pick, with drawn flags (R181, R185, R186). -/
theorem State.divide_nonzero {s : State} {m : Reg} {o : A2Operand} {pick : Word × Word → Word}
    (h : s.operandNat o ≠ 0) :
    s.divide m o pick = s.writeDraw m (pick (divMod (s.get m) (BitVec.ofNat 16 (s.operandNat o)))) 2 := by
  rw [s.divide_eq m o pick (mt (s.operand_eq_zero_iff o).1 h), s.operand_eq_ofNat]
  rfl

/-! ### The statements -/

/-- Settles O23: each meaning writes its result with drawn flags, and the operation on words is the exact one on numbers
modulo 2^16. -/
theorem addSubMulWrap : Obligations.AddSubMulWrap := by
  refine ⟨.of_rowA2 rfl, .of_rowA2 rfl, .of_rowA2 rfl, fun s m o => ⟨?_, ?_, ?_⟩⟩
  · rw [exec_add, s.get_add_operand]
    exact s.writeDraw_eq m _ 2
  · rw [exec_sub, s.get_sub_operand]
    exact s.writeDraw_eq m _ 2
  · rw [exec_mul, s.get_mul_operand]
    exact s.writeDraw_eq m _ 2

/-- Settles O24: the one function is the model's `divMod`, of which DIV and MOD each pick a part. -/
theorem divAndModFollowOneDivMod : Obligations.DivAndModFollowOneDivMod := by
  refine ⟨.of_rowA2 rfl, .of_rowA2 rfl, divMod, fun _ _ => divMod_law, fun s m o => ⟨fun h => ?_, fun h => ⟨?_, ?_⟩⟩⟩
  · exact ⟨State.divide_zero h, State.divide_zero h⟩
  · rw [exec_div, State.divide_nonzero h]
    exact s.writeDraw_eq m _ 2
  · rw [exec_mod, State.divide_nonzero h]
    exact s.writeDraw_eq m _ 2

end Machine

end Sys2Proof
end

section
/-! PROOFS. Bitwise instructions (spec/43_bitwise.md): NEG, NOT, AND, IOR and XOR on whole registers. -/

namespace Sys2Proof.Machine

/-! ### The results as numbers (R200, R201) -/

/-- The two's complement wraps: 0 and 0x8000 are their own negatives (R200). -/
theorem toNat_zero_sub_word (x : Word) : (0#16 - x).toNat = (65536 - x.toNat) % 65536 := by
  rw [BitVec.zero_sub]
  exact BitVec.toNat_neg x

/-- The exclusive or with all ones is the complement (R201). -/
theorem toNat_xor_ones_word (x : Word) : (x ^^^ 0xFFFF#16).toNat = 65535 - x.toNat := by
  have hnot : x ^^^ 0xFFFF#16 = ~~~x := BitVec.xor_allOnes
  rw [hnot]
  exact BitVec.toNat_not

/-! ### The meanings as results with drawn flags (R205) -/

theorem exec_neg (r : Reg) (s : State) : exec (.neg r) s = s.writeDraw r (0#16 - s.get r) 1 := rfl

theorem exec_not (r : Reg) (s : State) : exec (.not r) s = s.writeDraw r (s.get r ^^^ 0xFFFF#16) 1 := rfl

theorem exec_and (m l : Reg) (s : State) : exec (.and m l) s = s.writeDraw m (s.get m &&& s.get l) 1 := rfl

theorem exec_ior (m l : Reg) (s : State) : exec (.ior m l) s = s.writeDraw m (s.get m ||| s.get l) 1 := rfl

theorem exec_xor (m l : Reg) (s : State) : exec (.xor m l) s = s.writeDraw m (s.get m ^^^ s.get l) 1 := rfl

/-! ### The statement -/

/-- Settles O25: each meaning writes its result with drawn flags. NEG and NOT are exact on numbers, AND, IOR and XOR on
every bit. -/
theorem bitwiseResults : Obligations.BitwiseResults := by
  refine ⟨fun m l => ⟨.of_encode_byteR (op := 0b100010) rfl rfl, .of_encode_byteR (op := 0b100011) rfl rfl,
    .of_encode_byteRR (op := 0b1001) rfl rfl, .of_encode_byteRR (op := 0b1010) rfl rfl,
    .of_encode_byteRR (op := 0b1011) rfl rfl⟩, fun s m l => ?_⟩
  refine ⟨_, _, _, _, _, toNat_zero_sub_word _, toNat_xor_ones_word _, fun _ => BitVec.getLsbD_and,
    fun _ => BitVec.getLsbD_or, fun _ => BitVec.getLsbD_xor, ?_, ?_, ?_, ?_, ?_⟩
  · rw [exec_neg]
    exact s.writeDraw_eq m _ 1
  · rw [exec_not]
    exact s.writeDraw_eq m _ 1
  · rw [exec_and]
    exact s.writeDraw_eq m _ 1
  · rw [exec_ior]
    exact s.writeDraw_eq m _ 1
  · rw [exec_xor]
    exact s.writeDraw_eq m _ 1

end Sys2Proof.Machine
end

section
/-! PROOFS. Subroutines (spec/44_subroutine.md): what CAL and CAR store and RCL and RCR read, and the return
from each call whatever the callee did (R219). -/

namespace Sys2Proof

/-! ### Bytes and words -/

theorem append_eq_add (op v : BitVec 4) : (op ++ v : Byte) = (op ++ 0#4) + v.setWidth 8 := by
  revert op v; decide

/-- Format V1 with the immediate added to the pattern. -/
theorem Decodes.of_encode_append {op v : BitVec 4} {i : Instr} (hw : i.wellFormed = true) (he : encode i = [op ++ v]) :
    Decodes [(op ++ 0#4) + v.setWidth 8] i :=
  .of_encode hw (append_eq_add op v ▸ he)

/-- The two bytes of a word, the high one first, are its value (R62). -/
theorem toNat_hiByte_loByte (v : Word) : (hiByte v).toNat * 256 + (loByte v).toNat = v.toNat := by
  rw [← toNat_joinBytes, joinBytes_hiByte_loByte]

namespace Machine

/-- The two bytes that CAL and CAR store of the return address are `pc + 3` modulo 2^16 (R216, R218). -/
theorem State.toNat_returnAddress_bytes (s : State) :
    (hiByte s.returnAddress).toNat * 256 + (loByte s.returnAddress).toNat = (s.pc.toNat + 3) % 65536 :=
  (toNat_hiByte_loByte _).trans (BitVec.toNat_add s.pc 3#16)

/-! ### CAL and RCL (R215, R216) -/

theorem exec_cal (a : Word) (s : State) : exec (.cal a) s = .next ((s.push16 s.returnAddress).jump a) := rfl

/-- What CAL leaves at the two addresses of its push (R74, R216). -/
theorem exec_cal_stored {s t : State} {a : Word} (h : exec (.cal a) s = .next t) :
    t.readByte (s.sp - 1#16) = some (hiByte s.returnAddress) ∧ t.readByte s.sp = some (loByte s.returnAddress) :=
  ⟨State.readByte_stored h (by simp [State.stored]), State.readByte_stored h (by simp [State.stored])⟩

theorem exec_cal_sp {s t : State} {a : Word} (h : exec (.cal a) s = .next t) : t.sp = s.sp - 2#16 := by
  obtain rfl := Host.Outcome.next.inj h
  exact s.push16_sp _

/-- RCL where both bytes of the return address are there, the discarded bytes below them (R75, R215). -/
theorem exec_rcl_some {s : State} {v : BitVec 4} {hi lo : Byte}
    (hhi : s.readByte (s.sp + BitVec.ofNat 16 (v.toNat + 1)) = some hi)
    (hlo : s.readByte (s.sp + BitVec.ofNat 16 (v.toNat + 2)) = some lo) :
    exec (.rcl v) s = .next { s with sp := s.sp + BitVec.ofNat 16 (v.toNat + 2), pc := joinBytes hi lo } := by
  have habove (k : Nat) : s.sp + BitVec.ofNat 16 (v.toNat + k) = s.sp + zext4 v + BitVec.ofNat 16 k := by
    rw [BitVec.ofNat_add, ← BitVec.add_assoc, BitVec.ofNat_toNat]
    rfl
  rw [habove] at hhi hlo ⊢
  rw [exec_rcl, State.pop16_some (s := { s with sp := s.sp + zext4 v }) hhi hlo]
  rfl

/-! ### CAR and RCR (R217, R218) -/

theorem exec_car (r : Reg) (a : Word) (s : State) :
    exec (.car r a) s =
      .next (((s.writeWord (s.get r) s.returnAddress).writeWord (s.get r + 2#16) s.sp).jump a) := rfl

/-- The four bytes of a context, each at its own address. -/
theorem State.holds_four_iff {s : State} {c : Word} {b0 b1 b2 b3 : Byte} :
    s.holds c [b0, b1, b2, b3] ↔ s.readByte c = some b0 ∧ s.readByte (c + 1#16) = some b1 ∧
      s.readByte (c + 2#16) = some b2 ∧ s.readByte (c + 3#16) = some b3 := by
  have htwo : c + 1#16 + 1#16 = c + 2#16 := BitVec.add_assoc c 1#16 1#16
  have hthree : c + 2#16 + 1#16 = c + 3#16 := BitVec.add_assoc c 2#16 1#16
  simp only [State.holds, htwo, hthree, and_true]

/-- What CAR leaves from its register's address on: the return address and SP, both big-endian (R218). -/
theorem exec_car_stored {s t : State} {r : Reg} {a : Word} (h : exec (.car r a) s = .next t) :
    t.holds (s.get r) [hiByte s.returnAddress, loByte s.returnAddress, hiByte s.sp, loByte s.sp] :=
  State.holds_four_iff.2 ⟨State.readByte_stored h (by simp [State.stored]),
    State.readByte_stored h (by simp [State.stored]), State.readByte_stored h (by simp [State.stored]),
    State.readByte_stored h (by simp [State.stored])⟩

/-- RCR where the four bytes of the context are there (R217). -/
theorem exec_rcr_holds {s : State} {r : Reg} {b0 b1 b2 b3 : Byte} (h : s.holds (s.get r) [b0, b1, b2, b3]) :
    exec (.rcr r) s = .next { s with pc := joinBytes b0 b1, sp := joinBytes b2 b3 } := by
  obtain ⟨h0, h1, h2, h3⟩ := State.holds_four_iff.1 h
  have hthree : s.get r + 2#16 + 1#16 = s.get r + 3#16 := BitVec.add_assoc (s.get r) 2#16 1#16
  rw [← hthree] at h3
  rw [exec_rcr, State.withWord_some h0 h1, State.withWord_some h2 h3]
  rfl

/-! ### The statements -/

/-- Settles O27: RCL is a pop above the bytes it discards. -/
theorem rclDiscardsAndReturns : Obligations.RclDiscardsAndReturns :=
  ⟨fun _ => .of_encode_append (op := 0b1100) rfl rfl, fun _ _ _ _ => exec_rcl_some⟩

/-- Settles O28: CAL is a push of the return address followed by a jump. -/
theorem calPushesTheReturnAddress : Obligations.CalPushesTheReturnAddress := by
  refine ⟨fun _ _ => .of_encode_joinBytes rfl rfl, fun s a => ?_⟩
  obtain ⟨hhigh, hlow⟩ := exec_cal_stored (exec_cal a s)
  refine ⟨_, exec_cal a s, ⟨_, _, hhigh, hlow, s.toNat_returnAddress_bytes⟩, exec_cal_sp (exec_cal a s), rfl, rfl, rfl,
    rfl, (exec_effect (exec_cal a s)).sameSystem rfl, fun x hlo hhi => ?_⟩
  have hframe := s.readByte_push16 s.returnAddress x
  rwa [if_neg hhi, if_neg hlo] at hframe

/-- Settles O29: both words are read before SP is written, so `RCR SP` takes its address from the old SP. -/
theorem rcrRestoresTheContext : Obligations.RcrRestoresTheContext :=
  ⟨fun _ => .of_encode_byteR (op := 0b110101) rfl rfl, fun _ _ _ _ _ _ => exec_rcr_holds⟩

/-- Settles O30: CAR is two word stores followed by a jump; no register is written. -/
theorem carSavesTheContext : Obligations.CarSavesTheContext := by
  refine ⟨fun _ _ _ => .of_encode_byteR_joinBytes (op := 0b110110) rfl rfl, fun s r a => ?_⟩
  have heffect := exec_effect (exec_car r a s)
  refine ⟨_, exec_car r a s, ⟨_, _, _, _, exec_car_stored (exec_car r a s), s.toNat_returnAddress_bytes,
    toNat_hiByte_loByte s.sp⟩, fun q => heffect.get_eq q id, rfl, heffect.sameSystem rfl, fun x h0 h1 h2 h3 => ?_⟩
  have hframe := s.readByte_writeWords (s.get r) s.returnAddress s.sp x
  rwa [if_neg h3, if_neg h2, if_neg h1, if_neg h0] at hframe

/-- Settles O31: with `v` bytes of locals below it, the word RCL `v` pops is the one CAL pushed. -/
theorem rclReturnsFromCal : Obligations.RclReturnsFromCal := by
  intro s t u a v h hhigh hlow hsp
  obtain ⟨hhi, hlo⟩ := exec_cal_stored h
  rw [exec_cal_sp h] at hsp
  have hfirst : u.sp + BitVec.ofNat 16 (v.toNat + 1) = s.sp - 1#16 := by rw [hsp]; bv_omega
  have hsecond : u.sp + BitVec.ofNat 16 (v.toNat + 2) = s.sp := by rw [hsp]; bv_omega
  rw [exec_rcl_some (by rw [hfirst, hhigh, hhi]) (by rw [hsecond, hlow, hlo]), hsecond, joinBytes_hiByte_loByte]
  rfl

/-- Settles O32: the context RCR reads in `u` is the one CAR stored, SP among it. -/
theorem rcrReturnsFromCar : Obligations.RcrReturnsFromCar := by
  intro s t u r a h hr hsame
  simp only [List.forall_mem_cons] at hsame
  obtain ⟨same0, same1, same2, same3, -⟩ := hsame
  have hcontext : u.holds (u.get r) [hiByte s.returnAddress, loByte s.returnAddress, hiByte s.sp, loByte s.sp] := by
    rw [hr, State.holds_four_iff, same0, same1, same2, same3, ← State.holds_four_iff]
    exact exec_car_stored h
  rw [exec_rcr_holds hcontext, joinBytes_hiByte_loByte, joinBytes_hiByte_loByte]
  rfl

end Machine

end Sys2Proof
end

section
/-! PROOFS. Shifts that fill with a carry (spec/45_shift_with_carry.md): the values of SCL and SCR as numbers, and their
three cases by the amount. -/

namespace Sys2Proof

/-! ### The fill bits (R231, R232) -/

theorem toNat_lowOnes {n : Nat} (h : n ≤ 16) : (lowOnes n).toNat = 2 ^ n - 1 := by
  have hpow : 2 ^ n ≤ 2 ^ 16 := Nat.pow_le_pow_right (by decide) h
  rw [lowOnes, BitVec.toNat_ofNat, Nat.mod_eq_of_lt (by omega)]

theorem toNat_highOnes {n : Nat} (h : n ≤ 16) : (highOnes n).toNat = (2 ^ n - 1) * 2 ^ (16 - n) := by
  have hfits : (2 ^ n - 1) * 2 ^ (16 - n) < 2 ^ 16 := by
    calc (2 ^ n - 1) * 2 ^ (16 - n) < 2 ^ n * 2 ^ (16 - n) :=
          Nat.mul_lt_mul_of_pos_right (Nat.sub_lt (Nat.two_pow_pos n) Nat.one_pos) (Nat.two_pow_pos _)
      _ = 2 ^ 16 := by rw [← Nat.pow_add, Nat.add_sub_cancel' h]
  rw [highOnes, BitVec.toNat_shiftLeft, toNat_lowOnes h, Nat.shiftLeft_eq, Nat.mod_eq_of_lt hfits]

/-- SCL's fill bits are those its shift vacates. -/
theorem shiftLeft_and_lowOnes (a : Word) (n : Nat) : a <<< n &&& lowOnes n = 0#16 := by
  ext i hi
  by_cases hlow : i < n
  · simp [hlow]
  · have hclear : (lowOnes n)[i] = false := by
      rw [BitVec.getElem_eq_testBit_toNat, toNat_lowOnes (by omega), Nat.testBit_two_pow_sub_one, decide_eq_false hlow]
    rw [BitVec.getElem_and, hclear, Bool.and_false, BitVec.getElem_zero]

/-- SCR's fill bits are those its shift vacates. -/
theorem ushiftRight_and_highOnes (a : Word) {n : Nat} (h : n ≤ 16) : a >>> n &&& highOnes n = 0#16 := by
  ext i hi
  simp only [highOnes, BitVec.getElem_and, BitVec.getElem_ushiftRight, BitVec.getElem_shiftLeft, BitVec.getElem_zero]
  by_cases hlow : i < 16 - n
  · simp [hlow]
  · rw [BitVec.getLsbD_of_ge a (n + i) (by omega), Bool.false_and]

/-- Fill bits disjoint from a word add their own value to it. -/
theorem toNat_or_fill {x y : Word} (h : x &&& y = 0#16) (fill : Bool) :
    (x ||| if fill then y else 0#16).toNat = x.toNat + (if fill = true then 1 else 0) * y.toNat := by
  cases fill with
  | false => simp
  | true => simpa [BitVec.add_eq_or_of_and_eq_zero x y h] using BitVec.toNat_add_of_and_eq_zero h

namespace Machine

/-! ### The values of SCL and SCR as numbers (R231, R232) -/

theorem toNat_sclValue (a : Word) {n : Nat} (h : n ≤ 16) (c : Bool) :
    (sclValue a n c).toNat = a.toNat * 2 ^ n % 65536 + (if c = true then 1 else 0) * (2 ^ n - 1) := by
  rw [sclValue, toNat_or_fill (shiftLeft_and_lowOnes a n), toNat_lowOnes h, BitVec.toNat_shiftLeft, Nat.shiftLeft_eq]

theorem toNat_fillRight (a : Word) {n : Nat} (h : n ≤ 16) (fill : Bool) :
    (fillRight a n fill).toNat =
      a.toNat / 2 ^ n + (if fill = true then 1 else 0) * ((2 ^ n - 1) * 2 ^ (16 - n)) := by
  rw [fillRight, toNat_or_fill (ushiftRight_and_highOnes a h), toNat_highOnes h, BitVec.toNat_ushiftRight,
    Nat.shiftRight_eq_div_pow]

/-! ### The three cases of the amount (R230) -/

theorem State.amount_eq_operandNat (s : State) (o : A2Operand) : s.amount o = s.operandNat o := s.toNat_operand o

section
variable {s : State} {m : Reg} {o : A2Operand} {value : Word → Nat → Word} {carry : Word → Nat → Bool}

theorem State.shiftCarry_of_ge (h : 16 ≤ s.operandNat o) :
    s.shiftCarry m o value carry = .fault (.shiftAmount (s.operandNat o)) := by
  rw [State.shiftCarry, s.amount_eq_operandNat, if_pos h]

/-- By 0 the destination keeps its value, and all three flags are some values. -/
theorem State.shiftCarry_of_zero (h : s.operandNat o = 0) :
    ∃ (f : Flags) (k : Nat),
      s.shiftCarry m o value carry = .next { s with pc := s.pc + 2#16, rs := f, draws := k } := by
  rw [State.shiftCarry, s.amount_eq_operandNat, h, if_neg (by decide), if_pos rfl]
  exact ⟨_, _, rfl⟩

/-- By 1 to 15 the destination takes the value and C the carry; Z and S are some values. -/
theorem State.shiftCarry_of_pos (hpos : 1 ≤ s.operandNat o) (hle : s.operandNat o ≤ 15) :
    ∃ (z f : Bool) (k : Nat), s.shiftCarry m o value carry = .next { s.set m (value (s.get m) (s.operandNat o)) with
      pc := s.pc + 2#16, rs := { z := z, c := carry (s.get m) (s.operandNat o), s := f }, draws := k } := by
  rw [State.shiftCarry, s.amount_eq_operandNat, if_neg (by omega), if_neg (by omega)]
  exact ⟨_, _, _, rfl⟩

end

/-! ### The statement -/

/-- Settles O33: SCL and SCR are one operation with a value and a carry each; the three cases of the amount are those of
the operation, and each value is the shifted word plus the fill bits, which are disjoint from it. -/
theorem shiftsWithCarry : Obligations.ShiftsWithCarry := by
  refine ⟨.of_rowA2 rfl, .of_rowA2 rfl, fun s m o a n c ha hn hc => ?_⟩
  subst ha hn hc
  rw [exec_scl, exec_scr]
  refine ⟨fun h => ⟨State.shiftCarry_of_ge h, State.shiftCarry_of_ge h⟩,
    fun h => ⟨State.shiftCarry_of_zero h, State.shiftCarry_of_zero h⟩, fun hpos hle => ⟨?_, ?_⟩⟩
  · obtain ⟨z, f, k, hnext⟩ := State.shiftCarry_of_pos hpos hle
    exact ⟨_, z, f, k, toNat_sclValue _ (by omega) _, hnext⟩
  · obtain ⟨z, f, k, hnext⟩ := State.shiftCarry_of_pos hpos hle
    exact ⟨_, z, f, k, toNat_fillRight _ (by omega) _, hnext⟩

end Machine

end Sys2Proof
end

section
/-! PROOFS. The interrupt-flag test (spec/46_irf_laa.md R240): the masked value is not zero exactly where a flag and its
mask bit are both 1. -/

namespace Sys2Proof

theorem and_bne_zero_iff {w : Nat} {x y : BitVec w} :
    (x &&& y != 0#w) = true ↔ ∃ j, x.getLsbD j = true ∧ y.getLsbD j = true := by
  calc (x &&& y != 0#w) = true
    _ ↔ ¬ ∀ j, (x &&& y).getLsbD j = false := by rw [bne_iff_ne, ne_eq, BitVec.zero_iff_eq_false]
    _ ↔ ∃ j, x.getLsbD j = true ∧ y.getLsbD j = true := by
      simp only [Classical.not_forall, Bool.not_eq_false, BitVec.getLsbD_and, Bool.and_eq_true]

namespace Machine

theorem exec_irf (k : Byte) (s : State) : exec (.irf k) s = .next ((s.testInterruptFlags k).advance 2) := rfl

/-- Settles O36: the Z of IRF is the test that the masked RF is not zero, which is a test for a common bit. -/
theorem irfTestsTheMask : Obligations.IrfTestsTheMask :=
  ⟨fun _ => .of_encode rfl rfl, fun s k => ⟨s.rf &&& k != 0#8, and_bne_zero_iff, exec_irf k s⟩⟩

end Machine

end Sys2Proof
end

section
/-! PROOFS. Plain shifts and rotates (spec/47_shift_rotate.md): the values of ROL, ROR and SHL as numbers, the three cases
by the amount, and ROL as the ROR of the rest. -/

namespace Sys2Proof.Machine

/-! ### The values of ROL, ROR and SHL as numbers; that of SHR is `toNat_fillRight` (R251 to R254) -/

/-- Shifts to either side that add up to the whole width keep no place in common. -/
theorem shiftLeft_and_ushiftRight (a : Word) {i j : Nat} (h : 16 ≤ i + j) : a <<< i &&& a >>> j = 0#16 := by
  ext k hk
  simp only [BitVec.getElem_and, BitVec.getElem_shiftLeft, BitVec.getElem_ushiftRight, BitVec.getElem_zero]
  by_cases hlow : k < i
  · simp [hlow]
  · rw [BitVec.getLsbD_of_ge a (j + k) (by omega), Bool.and_false]

/-- The two parts of a rotated word, being disjoint, add up. -/
theorem toNat_shiftLeft_or_ushiftRight (a : Word) {i j : Nat} (h : 16 ≤ i + j) :
    (a <<< i ||| a >>> j).toNat = a.toNat * 2 ^ i % 65536 + a.toNat / 2 ^ j := by
  have hdisjoint := shiftLeft_and_ushiftRight a h
  rw [← BitVec.add_eq_or_of_and_eq_zero _ _ hdisjoint, BitVec.toNat_add_of_and_eq_zero hdisjoint,
    BitVec.toNat_shiftLeft, BitVec.toNat_ushiftRight, Nat.shiftLeft_eq, Nat.shiftRight_eq_div_pow]

theorem toNat_rolValue (a : Word) (n : Nat) :
    (rolValue a n).toNat = a.toNat * 2 ^ n % 65536 + a.toNat / 2 ^ (16 - n) :=
  toNat_shiftLeft_or_ushiftRight a (by omega)

theorem toNat_rorValue (a : Word) (n : Nat) :
    (rorValue a n).toNat = a.toNat / 2 ^ n + a.toNat * 2 ^ (16 - n) % 65536 := by
  rw [rorValue, BitVec.or_comm, toNat_shiftLeft_or_ushiftRight a (by omega), Nat.add_comm]

theorem toNat_shlValue (a : Word) (n : Nat) : (shlValue a n).toNat = a.toNat * 2 ^ n % 65536 := by
  rw [shlValue, BitVec.toNat_shiftLeft, Nat.shiftLeft_eq]

/-- Rotating to the left is rotating to the right by the rest of the width (R251). -/
theorem rolValue_eq_rorValue (a : Word) {n k : Nat} (h : n + k = 16) : rolValue a n = rorValue a k := by
  obtain rfl : k = 16 - n := by omega
  rw [rolValue, rorValue, BitVec.or_comm, Nat.sub_sub_self (by omega)]

/-! ### The meanings as one operation with a value each -/

theorem exec_rol (m : Reg) (o : A2Operand) (s : State) : exec (.rol m o) s = s.shift m o rolValue := rfl

theorem exec_ror (m : Reg) (o : A2Operand) (s : State) : exec (.ror m o) s = s.shift m o rorValue := rfl

theorem exec_shl (m : Reg) (o : A2Operand) (s : State) : exec (.shl m o) s = s.shift m o shlValue := rfl

section
variable {s : State} {m : Reg} {o : A2Operand}

/-- The four share the operation, so they share its cases by the amount; only the value tells them apart. -/
theorem exec_eq_shift {i : Instr} (hi : i ∈ [Instr.rol m o, .ror m o, .shl m o, .shr m o]) :
    ∃ value, exec i s = s.shift m o value ∧
      (i = .rol m o → value = rolValue) ∧ (i = .ror m o → value = rorValue) ∧ (i = .shl m o → value = shlValue) ∧
      (i = .shr m o → value = fun a n => fillRight a n s.rs.s) := by
  simp only [List.mem_cons, List.not_mem_nil, or_false] at hi
  rcases hi with rfl | rfl | rfl | rfl
  · exact ⟨_, exec_rol m o s, fun _ => rfl, nofun, nofun, nofun⟩
  · exact ⟨_, exec_ror m o s, nofun, fun _ => rfl, nofun, nofun⟩
  · exact ⟨_, exec_shl m o s, nofun, nofun, fun _ => rfl, nofun⟩
  · exact ⟨_, exec_shr m o s, nofun, nofun, nofun, fun _ => rfl⟩

/-! ### The three cases of the amount (R230, R250) -/

variable {value : Word → Nat → Word}

theorem State.shift_of_ge (h : 16 ≤ s.operandNat o) :
    s.shift m o value = .fault (.shiftAmount (s.operandNat o)) := by
  rw [State.shift, s.amount_eq_operandNat, if_pos h]

/-- By 0 the destination keeps its value; the flags are drawn all the same. -/
theorem State.shift_of_zero (h : s.operandNat o = 0) :
    ∃ (f : Flags) (k : Nat), s.shift m o value = .next { s with pc := s.pc + 2#16, rs := f, draws := k } := by
  rw [State.shift, s.amount_eq_operandNat, h, if_neg (by decide), if_pos rfl]
  exact ⟨_, _, rfl⟩

theorem State.shift_of_pos (hpos : 1 ≤ s.operandNat o) (hle : s.operandNat o ≤ 15) :
    s.shift m o value = s.writeDraw m (value (s.get m) (s.operandNat o)) 2 := by
  rw [State.shift, s.amount_eq_operandNat, if_neg (by omega), if_neg (by omega)]

end

/-! ### The statements -/

/-- Settles O34: the three cases are those of the shared operation, and in the third each instruction's value is the
exact number. -/
theorem plainShiftsAndRotates : Obligations.PlainShiftsAndRotates := by
  refine ⟨.of_rowA2 rfl, .of_rowA2 rfl, .of_rowA2 rfl, .of_rowA2 rfl, fun s m o a n fill i ha hn hfill hi => ?_⟩
  subst ha hn hfill
  obtain ⟨value, hexec, hrol, hror, hshl, hshr⟩ := exec_eq_shift (s := s) hi
  rw [hexec]
  refine ⟨State.shift_of_ge, State.shift_of_zero, fun hpos hle => ?_⟩
  rw [State.shift_of_pos hpos hle]
  obtain ⟨f, k, hnext⟩ := s.writeDraw_eq m (value (s.get m) (s.operandNat o)) 2
  refine ⟨_, f, k, fun h => ?_, fun h => ?_, fun h => ?_, fun h => ?_, hnext⟩
  · rw [hrol h, toNat_rolValue]
  · rw [hror h, toNat_rorValue]
  · rw [hshl h, toNat_shlValue]
  · rw [hshr h, toNat_fillRight _ (by omega)]

/-- Settles O35: immediates with the sum 16 are amounts from 1 to 15, where both instructions write their value, and the
two values are one word. -/
theorem rolIsRorOfTheRest : Obligations.RolIsRorOfTheRest := by
  intro s m v w hsum
  have hrol : exec (.rol m (.imm v)) s = s.writeDraw m (rolValue (s.get m) v.toNat) 2 :=
    State.shift_of_pos (o := .imm v) (show 1 ≤ v.toNat by omega) (show v.toNat ≤ 15 by omega)
  have hror : exec (.ror m (.imm w)) s = s.writeDraw m (rorValue (s.get m) w.toNat) 2 :=
    State.shift_of_pos (o := .imm w) (show 1 ≤ w.toNat by omega) (show w.toNat ≤ 15 by omega)
  rw [← rolValue_eq_rorValue (s.get m) hsum] at hror
  exact ⟨_, _, hrol, hror, fun _ => rfl, rfl, rfl⟩

end Sys2Proof.Machine
end

section
/-! PROOFS. Flag clearing and local branches (spec/48_local_branch.md): CLI, and the seven branches to the branch's own
address plus the displacement. -/

namespace Sys2Proof.Machine

/-! ### CLI (R265) -/

/-- Clearing under a mask bit, as the rule words it. -/
theorem and_not_eq_ite (flag mask : Bool) : (flag && !mask) = if mask = true then false else flag := by
  cases mask
  · exact Bool.and_true flag
  · exact Bool.and_false flag

theorem exec_cli (z c f : Bool) (s : State) : exec (.cli z c f) s = .next ((s.clearFlags z c f).advance 2) := rfl

/-- Settles O37: the row of `E8` reads the mask bits of every second byte, and each flag is cleared under its own. -/
theorem cliClearsMaskedFlags : Obligations.CliClearsMaskedFlags := by
  refine fun k => ⟨_, _, _, rfl, rfl, rfl, .twoBytes (row := rowM2 0xE8 .cli) rfl rfl fun _ => rfl, fun s => ?_⟩
  rw [exec_cli, State.clearFlags, and_not_eq_ite, and_not_eq_ite, and_not_eq_ite]
  rfl

/-! ### The local branches (R266) -/

/-- The target as a number: the branch's own address plus the signed displacement, modulo 2^16. -/
theorem State.toNat_branchTarget (s : State) (d : Byte) :
    ((s.branchTarget d).toNat : Int) = ((s.pc.toNat : Int) + d.toInt) % 65536 :=
  sub_eq_sext8_iff.1 (by rw [State.branchTarget, BitVec.add_comm, BitVec.add_sub_cancel])

/-- Settles O38: the branches on a flag and those on its complement are the two forms of `jumpIf`. -/
theorem localBranchesAreRelative : Obligations.LocalBranchesAreRelative := by
  refine ⟨fun d => ⟨.of_encode rfl rfl, .of_encode rfl rfl, .of_encode rfl rfl, .of_encode rfl rfl, .of_encode rfl rfl,
    .of_encode rfl rfl, .of_encode rfl rfl⟩, fun s d => ⟨s.branchTarget d, s.toNat_branchTarget d, ?_⟩⟩
  exact ⟨rfl,
    congrArg Host.Outcome.next (s.jumpIf_eq s.rs.z _ 2), congrArg Host.Outcome.next (s.jumpIf_not_eq s.rs.z _ 2),
    congrArg Host.Outcome.next (s.jumpIf_eq s.rs.s _ 2), congrArg Host.Outcome.next (s.jumpIf_not_eq s.rs.s _ 2),
    congrArg Host.Outcome.next (s.jumpIf_eq s.rs.c _ 2), congrArg Host.Outcome.next (s.jumpIf_not_eq s.rs.c _ 2)⟩

end Sys2Proof.Machine
end

section
/-! PROOFS. Increment and decrement (spec/49_indexed_immediate_inc.md R290, R291). -/

namespace Sys2Proof.Machine

theorem exec_inc (r : Reg) (s : State) : exec (.inc r) s = s.writeDraw r (s.get r + 1#16) 1 := rfl

theorem exec_dec (r : Reg) (s : State) : exec (.dec r) s = s.writeDraw r (s.get r - 1#16) 1 := rfl

theorem add_one_eq_ofNat (x : Word) : x + 1#16 = BitVec.ofNat 16 (x.toNat + 1) := BitVec.add_def x 1#16

/-- Minus one is plus 65535 modulo 2^16. -/
theorem sub_one_eq_ofNat (x : Word) : x - 1#16 = BitVec.ofNat 16 (x.toNat + 65535) := by
  apply BitVec.eq_of_toNat_eq
  rw [BitVec.toNat_sub, BitVec.toNat_ofNat, BitVec.toNat_ofNat, Nat.add_comm]

/-- Settles O26: both write the exact number modulo 2^16 with drawn flags. -/
theorem incAndDecWrap : Obligations.IncAndDecWrap := by
  refine ⟨fun r => ⟨.of_encode_byteR (op := 0b111110) rfl rfl, .of_encode_byteR (op := 0b111111) rfl rfl⟩,
    fun s r => ⟨?_, ?_⟩⟩
  · rw [exec_inc, add_one_eq_ofNat (s.get r)]
    exact s.writeDraw_eq r _ 1
  · rw [exec_dec, sub_one_eq_ofNat (s.get r)]
    exact s.writeDraw_eq r _ 1

end Sys2Proof.Machine
end

section
/-! PROOFS. The three things a step can do at a boundary (spec/60_exceptions.md R328), each with the condition under
which it does it, and what follows: no entry from inside the routine (R320) and the end of a run (R357). -/

namespace Sys2Proof.Machine

/-! ### Whether an entry is due (R315) -/

theorem State.entryDue_iff {s : State} : s.entryDue = true ↔ s.ie = true ∧ s.inh = false ∧ s.rf ≠ 0#8 := by
  rw [State.entryDue, Bool.and_eq_true, State.accepts_iff, bne_iff_ne, and_assoc]

/-- No entry is due where interrupts are disabled, in the routine, or with no interrupt flag raised. -/
theorem State.entryDue_eq_false_iff {s : State} :
    s.entryDue = false ↔ s.ie = false ∨ s.inh = true ∨ s.rf = 0#8 := by
  rw [← Bool.not_eq_true, State.entryDue_iff, Classical.not_and_iff_not_or_not, Classical.not_and_iff_not_or_not,
    Bool.not_eq_true, Bool.not_eq_false, Classical.not_not]

/-! ### Entering and sleeping (R327, R328) -/

theorem step_enters {s : State} (hstuck : s.stuck = false) (hdue : s.arrive.entryDue = true) :
    step s = .next (s.arrive.interruptEntry s.pc) := by
  simp [step, State.boundary, hstuck, hdue]

theorem step_sleeps {s : State} (hstuck : s.stuck = false) (hdue : s.arrive.entryDue = false)
    (hsleep : s.sleep = true) : step s = .next s.arrive := by
  simp [step, State.boundary, hstuck, hdue, hsleep]

/-- Settles O42: the three premises on the arrived state are those of recognition. -/
theorem stepEntersADueInterrupt : Obligations.StepEntersADueInterrupt := by
  rintro s rf hstuck hie hinh rfl hrf
  exact step_enters hstuck (State.entryDue_iff.2 ⟨hie, hinh, hrf⟩)

/-- Settles O43: nothing is due in the arrived state, so the machine sleeps on in it. -/
theorem sleepChangesOnlyTheInterruptFlags : Obligations.SleepChangesOnlyTheInterruptFlags := by
  rintro s rf hstuck hsleep rfl hnone
  exact step_sleeps hstuck (State.entryDue_eq_false_iff.2 hnone) hsleep

/-! ### Running an instruction (R77, R328) -/

/-- Bytes that decode and leave nothing are a first byte and as many more as a fetch reads (R77, R104). -/
theorem decode_ok_nil {bs : List Byte} {i : Instr} (h : decode bs = .ok (i, [])) :
    ∃ b0 tl, bs = b0 :: tl ∧ tl.length = fetchLength b0 - 1 := by
  obtain ⟨b0, tl, row, rfl, -, hle, -, hnil⟩ := decode_ok h
  exact ⟨b0, tl, rfl, Nat.le_antisymm (List.drop_eq_nil_iff.1 hnil.symm) hle⟩

/-- Where one whole instruction stands at `pc`, running an instruction is executing that one. -/
theorem State.runInstruction_holds {s : State} {bs : List Byte} {i : Instr} (h : s.holds s.pc bs)
    (hd : decode bs = .ok (i, [])) : s.runInstruction = exec i s := by
  obtain ⟨b0, tl, rfl, hlen⟩ := decode_ok_nil hd
  rw [State.runInstruction, State.fetch_holds h hlen]
  simp only [hd]

/-- The step of a machine that runs the instruction at `pc`; the arrival of events leaves `pc` and memory alone. -/
theorem step_runs_decoded {s : State} {bs : List Byte} {i : Instr} (hr : s.Runs) (h : s.holds s.pc bs)
    (hd : decode bs = .ok (i, [])) : step s = exec i s.arrive := by
  rw [step_runs hr]
  exact State.runInstruction_holds (s := s.arrive) ((State.holds_congr s.arrive_mem _ _).2 h) hd

/-- Settles O40: `State.arrive` is the state the statement writes out. -/
theorem stepRunsTheDecodedInstruction : Obligations.StepRunsTheDecodedInstruction :=
  fun _ _ _ hr h hd _ => step_runs_decoded hr h hd

/-- Settles O41: what the encoder writes decodes to the instruction and leaves nothing (O1). -/
theorem stepExecutesEncodedInstruction : Obligations.StepExecutesEncodedInstruction := by
  intro s i hw hr h
  have hd : decode (encode i) = .ok (i, []) := by simpa using decodeInvertsEncode i hw []
  exact step_runs_decoded hr h hd

/-! ### Inside the routine (R320) -/

/-- In the routine an instruction leaves IS alone, but for RST, which empties it: INT is not accepted there (R131,
R320). -/
theorem exec_in_routine {i : Instr} {s t : State} (hs : s.inh = true) (h : exec i s = .next t) :
    t.is = s.is ∨ (t.is.valid = false ∧ t.inh = false) := by
  obtain ⟨-, hinh, -, his⟩ := controlStateIsWrittenOnlyBy i s t h
  cases i
  case int => obtain ⟨hout, -⟩ := exec_int_next h; nomatch hs.symm.trans hout
  case rst => exact .inr ⟨his, hinh⟩
  all_goals exact .inl his

/-- Settles O49: in the routine no entry is due, sleep leaves IS alone, and instructions do as `exec_in_routine`
says. -/
theorem nothingReentersTheRoutine : Obligations.NothingReentersTheRoutine := by
  intro s t hs h
  obtain ⟨-, ⟨hdue, -⟩ | ⟨-, -, rfl⟩ | ⟨-, -, i, hi⟩⟩ := step_next h
  · obtain ⟨-, hout, -⟩ := State.entryDue_iff.1 hdue
    nomatch hs.symm.trans hout
  · exact .inl rfl
  · exact exec_in_routine (s := s.arrive) hs hi

/-! ### The end of a run (R357) -/

/-- An environment that has nothing but zeros to give raises no flag (R313). -/
theorem State.event_eq_zero {s : State} (h : ∀ e ∈ s.env, e = 0#8) : s.event = 0#8 := by
  rw [State.event]
  cases henv : s.env with
  | nil => rfl
  | cons e rest => exact h e (by simp [henv])

/-- The displacement 0 branches to the branch itself (R266, R267). -/
theorem exec_jmp_zero (s : State) : exec (.jmp 0x00#8) s = .next s :=
  congrArg (fun a => Host.Outcome.next (s.jump a)) (BitVec.add_zero s.pc)

/-- At the end of a run no flag is raised where an entry is possible, even after the events of the boundary. -/
theorem State.EndOfRun.arrive_rf {s : State} (hend : s.EndOfRun) (hpending : s.ie = true → s.inh = false → s.rf = 0#8)
    (hie : s.ie = true) (hinh : s.inh = false) : s.arrive.rf = 0#8 := by
  obtain ⟨-, -, -, hquiet⟩ := hend
  rcases hquiet with hoff | hin | hzero
  · nomatch hie.symm.trans hoff
  · nomatch hinh.symm.trans hin
  · rw [State.arrive_rf, hpending hie hinh, State.event_eq_zero hzero, BitVec.or_self]

theorem State.EndOfRun.runs {s : State} (hend : s.EndOfRun) (hpending : s.ie = true → s.inh = false → s.rf = 0#8) :
    s.Runs := by
  have ⟨hstuck, hawake, _, _⟩ := hend
  refine ⟨hstuck, Bool.eq_false_iff.2 fun hdue => ?_, hawake⟩
  obtain ⟨hie, hinh, hrf⟩ := State.entryDue_iff.1 hdue
  exact hrf (hend.arrive_rf hpending hie hinh)

/-- The arrival of events keeps the end of a run: it moves RF and `env` alone. -/
theorem State.EndOfRun.arrive {s : State} (hend : s.EndOfRun) : s.arrive.EndOfRun := by
  obtain ⟨hstuck, hawake, hloop, hquiet⟩ := hend
  exact ⟨hstuck, hawake, (State.holds_congr s.arrive_mem _ _).2 hloop,
    hquiet.imp_right (Or.imp_right fun hzero e he => hzero e (List.mem_of_mem_tail he))⟩

/-- Settles O48: the machine runs the `JMP` to itself, which leaves the arrived state as it is. -/
theorem endOfRunIsAFixedPoint : Obligations.EndOfRunIsAFixedPoint := by
  intro s hend hpending
  have ⟨_, _, hloop, _⟩ := hend
  have hstep : step s = .next s.arrive :=
    (stepExecutesEncodedInstruction s (.jmp 0x00#8) rfl (hend.runs hpending) hloop).trans (exec_jmp_zero s.arrive)
  exact ⟨s.arrive, hstep, rfl, hend.arrive, hend.arrive_rf hpending⟩

end Sys2Proof.Machine
end

section
/-! PROOFS. What an instruction that stops can have stopped for (spec/60_exceptions.md R310, R311): each shared
operation has its one reason, and the instructions without such an operation go on. -/

namespace Sys2Proof.Machine

/-! ### Reads (R37, U9) -/

/-- The fault is that of a byte that holds no value. -/
def State.StopsUnwritten (s : State) (r : Fault) : Prop := ∃ a, r = .unwrittenByte a ∧ s.readByte a = none

section
variable {s : State} {r : Fault}

/-- A read stops at its own byte or goes on with the byte that is there. -/
theorem State.withByte_fault {a : Word} {k : Byte → Result} (h : s.withByte a k = .fault r)
    (hk : ∀ b, k b = .fault r → s.StopsUnwritten r) : s.StopsUnwritten r := by
  cases hb : s.readByte a with
  | none =>
    rw [State.withByte_none hb] at h
    exact ⟨a, (Host.Outcome.fault.inj h).symm, hb⟩
  | some b =>
    rw [State.withByte_some hb] at h
    exact hk b h

theorem State.withWord_fault {a : Word} {k : Word → Result} (h : s.withWord a k = .fault r)
    (hk : ∀ w, k w = .fault r → s.StopsUnwritten r) : s.StopsUnwritten r :=
  State.withByte_fault h fun _ h => State.withByte_fault h fun _ => hk _

/-- The reads of a pop see the memory of the state it starts from, for the moved SP is no part of memory (R75). -/
theorem State.pop16_fault {k : Word → State → Result} (h : s.pop16 k = .fault r)
    (hk : ∀ w t, k w t = .fault r → s.StopsUnwritten r) : s.StopsUnwritten r :=
  State.withByte_fault (s := { s with sp := s.sp + 1#16 }) h fun _ h =>
    State.withByte_fault (s := { s with sp := s.sp + 1#16 + 1#16 }) h fun _ => hk _ _

theorem State.loadHigh_fault {m : Reg} {a : Word} {n : Nat} (h : s.loadHigh m a n = .fault r) : s.StopsUnwritten r :=
  State.withByte_fault h nofun

theorem exec_pop_fault {m : Reg} (h : exec (.pop m) s = .fault r) : s.StopsUnwritten r := by
  rw [exec_pop] at h
  exact State.pop16_fault h fun _ _ h => nomatch h

theorem exec_rcl_fault {v : BitVec 4} (h : exec (.rcl v) s = .fault r) : s.StopsUnwritten r := by
  rw [exec_rcl] at h
  exact State.pop16_fault (s := { s with sp := s.sp + zext4 v }) h fun _ _ h => nomatch h

theorem exec_rcr_fault {m : Reg} (h : exec (.rcr m) s = .fault r) : s.StopsUnwritten r := by
  rw [exec_rcr] at h
  exact State.withWord_fault h fun _ h => State.withWord_fault h nofun

/-! ### INT and RET (U6, U7) -/

theorem exec_int_fault (h : exec .int s = .fault r) : r = .intNotAccepted ∧ ¬(s.ie = true ∧ s.inh = false) := by
  by_cases hacc : s.ie = true ∧ s.inh = false
  · rw [exec_int_accepted hacc] at h
    nomatch h
  · rw [exec_int_not_accepted hacc] at h
    exact ⟨(Host.Outcome.fault.inj h).symm, hacc⟩

theorem exec_ret_fault (h : exec .ret s = .fault r) : r = .retBeforeEntry ∧ s.is.valid = false := by
  by_cases hvalid : s.is.valid = true
  · rw [exec_ret_valid hvalid] at h
    nomatch h
  · have hstop : exec .ret s = .fault .retBeforeEntry := if_neg hvalid
    rw [hstop] at h
    exact ⟨(Host.Outcome.fault.inj h).symm, Bool.eq_false_iff.2 hvalid⟩

/-! ### Division and shifts (U2, U4) -/

variable {m : Reg} {o : A2Operand}

theorem State.divide_fault {pick : Word × Word → Word} (h : s.divide m o pick = .fault r) :
    r = .divideByZero ∧ s.operandNat o = 0 := by
  by_cases hzero : s.operandNat o = 0
  · rw [State.divide_zero hzero] at h
    exact ⟨(Host.Outcome.fault.inj h).symm, hzero⟩
  · rw [State.divide_nonzero hzero] at h
    nomatch h

/-- A choice on the amount that stops from 16 on alone, and with the amount as its reason (R230). -/
theorem shiftAmount_of_fault {n : Nat} {go : Result} (h : (if 16 ≤ n then .fault (.shiftAmount n) else go) = .fault r)
    (hgo : go ≠ .fault r) : r = .shiftAmount n ∧ 16 ≤ n := by
  by_cases hn : 16 ≤ n
  · rw [if_pos hn] at h
    exact ⟨(Host.Outcome.fault.inj h).symm, hn⟩
  · rw [if_neg hn] at h
    exact absurd h hgo

theorem State.shift_fault {value : Word → Nat → Word} (h : s.shift m o value = .fault r) :
    r = .shiftAmount (s.operandNat o) ∧ 16 ≤ s.operandNat o := by
  rw [State.shift, s.amount_eq_operandNat] at h
  refine shiftAmount_of_fault h ?_
  split <;> nofun

theorem State.shiftCarry_fault {value : Word → Nat → Word} {carry : Word → Nat → Bool}
    (h : s.shiftCarry m o value carry = .fault r) :
    r = .shiftAmount (s.operandNat o) ∧ 16 ≤ s.operandNat o := by
  rw [State.shiftCarry, s.amount_eq_operandNat] at h
  refine shiftAmount_of_fault h ?_
  split <;> nofun

end

/-! ### The statement -/

/-- Settles O47: every instruction that can stop is one of the operations above or a reserved row; the meanings of all
others are a next state. -/
theorem onlyUnspecifiedCasesStop : Obligations.OnlyUnspecifiedCasesStop := by
  intro i s r h
  cases i
  case int => exact exec_int_fault h
  case ret => exact exec_ret_fault h
  case div | mod => exact State.divide_fault h
  case rol | ror | shl => exact State.shift_fault h
  case shr => rw [exec_shr] at h; exact State.shift_fault h
  case scl => rw [exec_scl] at h; exact State.shiftCarry_fault h
  case scr => rw [exec_scr] at h; exact State.shiftCarry_fault h
  case lod | laa | ldi | lri => exact State.loadHigh_fault h
  case pop => exact exec_pop_fault h
  case rcl => exact exec_rcl_fault h
  case rcr => exact exec_rcr_fault h
  case reserved07 | reserved0B | reserved0C | reserved18 | reserved1C | reserved1E | unassigned20 | reserved40
    | reserved85 | reserved86 | unassignedD1 | unassignedD2 | reservedDE => exact ⟨_, (Host.Outcome.fault.inj h).symm⟩
  all_goals nomatch h

end Sys2Proof.Machine
end
